-- ==== Sys2Proof/Word.lean ====
section
/-! DEFINITION. The word types of spec/00_scope.md R2 and their plainest arithmetic. -/

namespace Sys2Proof

/-- A byte is 8 bits (R2). -/
abbrev Byte := BitVec 8
/-- A word is 64 bits (R2). -/
abbrev Word := BitVec 64
/-- A vector register is 2048 bits (R26). -/
abbrev Vec := BitVec 2048
/-- A mask register is 256 bits (R26). -/
abbrev MaskW := BitVec 256

/-- A mathematical integer reduced to `n` bits. -/
abbrev narrow (n : Nat) (x : Int) : BitVec n := BitVec.ofInt n x

end Sys2Proof
end

