-- ==== Sys2Proof/Syntax.lean ====
section
/-! DEFINITION. The instructions and events of spec/opcode_table.json, one constructor of `Instr`
per row, with the operand forms of spec/03_encoding.md (R37 to R46). Rows of the table that name an
event of the device (a copy point, a retirement, a host command) have no encoding: their
constructors carry the choice the event makes. -/

namespace Sys2Proof

/-- The five engine streams of a core (R8), coded as in `cr.STATUS` (R33). -/
inductive Stream where
  | C | L | M | V | S
  deriving DecidableEq, Repr

/-- Type codes TY (R41). -/
inductive Ty where
  | i64 | i32 | i16 | i8 | i4 | n64 | n32 | n16 | n8 | n4
  | f32 | f16 | bf16 | e4m3 | e5m2 | e2m1 | sh8 | sh4
  deriving DecidableEq, Repr

/-- Condition codes COND (R42). -/
inductive Cond where
  | eq | ne | lt | ge | le | gt
  deriving DecidableEq, Repr

/-- Scope codes SCOPE (R42). -/
inductive Scope where
  | stream | core | plot | die | mod | sys
  deriving DecidableEq, Repr

/-- Branch hints (R43, R124). -/
inductive Hint where
  | none | taken | notTaken
  deriving DecidableEq, Repr

/-- SIZE of a scalar access (R43). -/
inductive Size where
  | b8 | b16 | b32 | b64
  deriving DecidableEq, Repr

/-- Overflow policies (R33 `cr.CVPOL`, R64). -/
inductive Pol where
  | sat | inf | nan | trap
  deriving DecidableEq, Repr

/-- The literal that follows a base word (R39). -/
inductive Lit where
  | none
  | l32 (v : BitVec 32)
  | l64 (v : BitVec 64)
  deriving DecidableEq, Repr

/-- The fields every instruction has: its wait and post (R37) and the literal behind it (R39). -/
structure Head where
  wsem : Fin 32
  wamt : Fin 8
  psem : Fin 32
  pamt : Fin 8
  lit  : Lit
  deriving DecidableEq, Repr

/-- A scalar source operand (R38, R118). `lit` is a literal marker; its value is the head's. -/
inductive Src where
  | reg (n : Fin 32)
  | age (n : Fin 16)
  | imm (v : BitVec 5)
  | lit
  deriving DecidableEq, Repr

/-- A scalar destination: a `%g` register, or 0x40, which only pushes (R38). -/
inductive Dst where
  | reg (n : Fin 32)
  | push
  deriving DecidableEq, Repr

/-- A vector source operand (R179); `cb` is a codebook-expanded register `%v n:k bank`. -/
inductive VSrc where
  | reg (n : Fin 32)
  | age (n : Fin 16)
  | cb (bank : Fin 8) (n : Fin 8)
  | imm (v : BitVec 5)
  | lit
  deriving DecidableEq, Repr

/-- A mask source operand (R179). -/
inductive MSrc where
  | reg (n : Fin 8)
  | age (n : Fin 16)
  deriving DecidableEq, Repr

/-- A mask destination. -/
inductive MDst where
  | reg (n : Fin 8)
  | push
  deriving DecidableEq, Repr

/-- The PAIR field of `WEAVE` (R46). -/
inductive Pair where
  | i8i8 | n8i8 | i8n8 | n8n8 | i4i4
  | e4e4 | e4e5 | e5e4 | e5e5 | f16f16 | bfbf
  | s8s8 | s4s4 | s8s4 | s4s8
  deriving DecidableEq, Repr

/-- The fields `FSET` and `FPATCH` name (R214). -/
inductive FField where
  | bound (k : Fin 6)
  | base (w : Fin 3)
  | stride (w : Fin 3) (k : Fin 6)
  | target (w : Fin 3)
  | attr (w : Fin 3)
  | oper
  | bmax (k : Fin 6)
  | wmask
  | patchen
  deriving DecidableEq, Repr

/-- The queue `QDROP` names (R159). -/
inductive DropQ where
  | L | M | V | S | shuttle
  deriving DecidableEq, Repr

/-- A mover of points: an `FGO` of a stream, or a started shuttle copy by its number; the Loom for
reads of the granary (R93, R220). -/
inductive Engine where
  | loom
  | fgo (st : Stream)
  | copy (id : Nat)
  deriving DecidableEq, Repr

/-- A memory access of a host hart (R109, R307), at an address as its mode and page tables take it. `rd` is the
register that receives what it returns: `x` below 32, and from there on `f`. -/
inductive HartOp where
  | load (rd : Nat) (signed : Bool) (addr : Nat) (bytes : Nat)
  | store (addr : Nat) (bytes : Nat) (v : Word)
  | amoAdd (rd : Nat) (addr : Nat) (bytes : Nat) (v : Word)
  | amoSwap (rd : Nat) (addr : Nat) (bytes : Nat) (v : Word)
  | amoAnd (rd : Nat) (addr : Nat) (bytes : Nat) (v : Word)
  | amoOr (rd : Nat) (addr : Nat) (bytes : Nat) (v : Word)
  | amoXor (rd : Nat) (addr : Nat) (bytes : Nat) (v : Word)
  | amoMin (rd : Nat) (signed : Bool) (addr : Nat) (bytes : Nat) (v : Word)
  | amoMax (rd : Nat) (signed : Bool) (addr : Nat) (bytes : Nat) (v : Word)
  | loadReserved (rd : Nat) (addr : Nat) (bytes : Nat)
  | storeConditional (rd : Nat) (addr : Nat) (bytes : Nat) (v : Word)
  | fence
  deriving DecidableEq, Repr

/-- Image kinds (R315). -/
inductive ImgKind where
  | bootLoader | moduleFw | reeve | supervisor | config | osLoader
  deriving DecidableEq, Repr

/-- One certificate of a chain (R314), and Ndomon's over an identity key (R316). -/
structure Cert where
  serial    : Nat
  issuerKey : Nat
  key       : Nat
  sig       : List Byte
  body      : List Byte
  notBefore : Nat
  notAfter  : Nat
  deriving DecidableEq, Repr

/-- The configuration record's fields (R316): the digests and keys are named by numbers; the
mathematics behind them is `Config`'s. -/
structure CfgRecord where
  serial     : Nat
  moduleNo   : Nat
  seq        : Nat
  keys       : List Nat
  minVersion : List Nat
  anchors    : List Nat
  revoked    : List Nat
  issueTime  : Nat
  powerLimit : Nat
  partition  : List Nat
  identity   : Nat
  identityCert : Cert
  deriving DecidableEq, Repr

/-- An image by its bytes, laid out as R315 gives them. -/
structure Image where
  bytes : List Byte
  deriving DecidableEq, Repr

/-- What a peer offers when it opens a management session (R314). -/
structure Offer where
  tls13      : Bool
  suiteOk    : Bool
  groupOk    : Bool
  schemeOk   : Bool
  chain      : List Cert
  proof      : List Byte
  deriving DecidableEq, Repr

/-- Power and reset commands of a session (R314). -/
inductive PowerOp where
  | powerOff | powerOn | reset
  deriving DecidableEq, Repr

/-- An entry of the export table (R313). -/
structure ExportEnt where
  valid    : Bool
  writable : Bool
  base     : Nat
  length   : Nat
  asids    : Option (List Nat)
  deriving DecidableEq, Repr

/-- A flit on a module port (R320): whether its CRC holds and what it carries. -/
inductive FlitLoad where
  | idle
  | write (exportNo : Nat) (off : Nat) (bytes : List Byte)
  deriving DecidableEq, Repr

/-- The instructions and events of the device: one constructor per row of the opcode table, in the
table's order. -/
inductive Instr where
  | nop (h : Head)
  | add (h : Head) (ty : Ty) (d : Dst) (a b : Src)
  | sub (h : Head) (ty : Ty) (d : Dst) (a b : Src)
  | mul (h : Head) (ty : Ty) (d : Dst) (a b : Src)
  | mulh (h : Head) (ty : Ty) (d : Dst) (a b : Src)
  | div (h : Head) (ty : Ty) (d : Dst) (a b : Src)
  | rem (h : Head) (ty : Ty) (d : Dst) (a b : Src)
  | and (h : Head) (ty : Ty) (d : Dst) (a b : Src)
  | or (h : Head) (ty : Ty) (d : Dst) (a b : Src)
  | xor (h : Head) (ty : Ty) (d : Dst) (a b : Src)
  | andn (h : Head) (ty : Ty) (d : Dst) (a b : Src)
  | shl (h : Head) (ty : Ty) (d : Dst) (a b : Src)
  | shr (h : Head) (ty : Ty) (d : Dst) (a b : Src)
  | sra (h : Head) (ty : Ty) (d : Dst) (a b : Src)
  | rot (h : Head) (ty : Ty) (d : Dst) (a b : Src)
  | mov (h : Head) (ty : Ty) (d : Dst) (a : Src)
  | clz (h : Head) (ty : Ty) (d : Dst) (a : Src)
  | popc (h : Head) (ty : Ty) (d : Dst) (a : Src)
  | ctz (h : Head) (ty : Ty) (d : Dst) (a : Src)
  | not (h : Head) (ty : Ty) (d : Dst) (a : Src)
  | neg (h : Head) (ty : Ty) (d : Dst) (a : Src)
  | min (h : Head) (ty : Ty) (d : Dst) (a b : Src)
  | max (h : Head) (ty : Ty) (d : Dst) (a b : Src)
  | cmp (h : Head) (c : Cond) (ty : Ty) (d : Dst) (a b : Src)
  | sel (h : Head) (ty : Ty) (d : Dst) (a b c : Src)
  | ext (h : Head) (ty : Ty) (d : Dst) (a b : Src) (len1 : BitVec 6)
  | ins (h : Head) (ty : Ty) (d : Dst) (a b : Src) (len1 : BitVec 6)
  | addx (h : Head) (s : Fin 8) (ty : Ty) (d : Dst) (a b : Src)
  | br (h : Head) (c : Cond) (hint : Hint) (uns : Bool) (a b t : Src)
  | jmp (h : Head) (t : Src)
  | jmpAbs (h : Head) (a : Src)
  | call (h : Head) (d : Dst) (t : Src)
  | callAbs (h : Head) (d : Dst) (a : Src)
  | ret (h : Head) (a : Src)
  | loop (h : Head) (d : Dst) (a t : Src)
  | ld (h : Head) (sc : Scope) (acq sx : Bool) (sz : Size) (d : Dst) (a b : Src)
  | st (h : Head) (sc : Scope) (rel : Bool) (sz : Size) (a b c : Src)
  | ldl (h : Head) (sx : Bool) (sz : Size) (d : Dst) (a b : Src)
  | stu (h : Head) (sz : Size) (a b c : Src)
  | amoAdd (h : Head) (w64 : Bool) (sc : Scope) (d : Dst) (a b : Src)
  | amoAnd (h : Head) (w64 : Bool) (sc : Scope) (d : Dst) (a b : Src)
  | amoOr (h : Head) (w64 : Bool) (sc : Scope) (d : Dst) (a b : Src)
  | amoXor (h : Head) (w64 : Bool) (sc : Scope) (d : Dst) (a b : Src)
  | amoSmin (h : Head) (w64 : Bool) (sc : Scope) (d : Dst) (a b : Src)
  | amoSmax (h : Head) (w64 : Bool) (sc : Scope) (d : Dst) (a b : Src)
  | amoUmin (h : Head) (w64 : Bool) (sc : Scope) (d : Dst) (a b : Src)
  | amoUmax (h : Head) (w64 : Bool) (sc : Scope) (d : Dst) (a b : Src)
  | amoSwap (h : Head) (w64 : Bool) (sc : Scope) (d : Dst) (a b : Src)
  | amoCas (h : Head) (w64 : Bool) (sc : Scope) (d : Dst) (a b c : Src)
  | pref (h : Head) (a b : Src)
  | csrd (h : Head) (d : Dst) (crn : BitVec 9)
  | cswr (h : Head) (d : Dst) (crn : BitVec 9) (a : Src)
  | csset (h : Head) (d : Dst) (crn : BitVec 9) (a : Src)
  | csclr (h : Head) (d : Dst) (crn : BitVec 9) (a : Src)
  | svc (h : Head) (code : Byte)
  | brk (h : Head) (code : Byte)
  | retf (h : Head)
  | nudgearm (h : Head) (d : Dst) (a b : Src)
  | nudgeret (h : Head)
  | waiti (h : Head)
  | pause (h : Head) (a : Src)
  | pauseEnd (core : Nat) (st : Stream)
  | fence (h : Head) (sc : Scope)
  | fenceX (h : Head) (mask : BitVec 5)
  | fenceXJoin (core : Nat) (st : Stream)
  | tlbinv (h : Head)
  | tlbinvA (h : Head) (a b : Src)
  | grwr (h : Head) (a b c : Src)
  | grq (h : Head) (d : Dst) (a : Src)
  | remapset (h : Head) (a b c : Src)
  | semwait (h : Head) (n : Fin 32) (b : Src)
  | sempost (h : Head) (n : Fin 32) (b : Src)
  | semset (h : Head) (d : Dst) (n : Fin 32) (b : Src)
  | semrd (h : Head) (d : Dst) (n : Fin 32)
  | waitGrant (core : Nat) (n : Fin 32)
  | rdv (h : Head)
  | spawn (h : Head) (d : Dst) (a : Src)
  | tagset (h : Head) (d : Dst) (a : Src)
  | qdrop (h : Head) (q : DropQ) (d : Dst) (a : Src)
  | wqrsv (h : Head) (d : Dst) (a : Src)
  | wqpush (h : Head) (d : Dst) (a b : Src)
  | wqcmt (h : Head) (d : Dst) (a b c : Src)
  | wqpop (h : Head) (nb : Bool) (d : Dst) (a b : Src)
  | wqstat (h : Head) (d : Dst) (a : Src)
  | wqctlCreate (h : Head) (d : Dst) (a b : Src)
  | wqctlRestart (h : Head) (d : Dst) (a b : Src)
  | wqctlDestroy (h : Head) (d : Dst) (a b : Src)
  | wqctlRead (h : Head) (d : Dst) (a b : Src)
  | tbarm (h : Head) (ord nudge : Bool) (d : Dst) (a b c : Src)
  | tbwait (h : Head) (d : Dst) (a b : Src)
  | tbarrive (h : Head) (a b c : Src)
  | nudgeDelivery (core : Nat)
  | vadd (h : Head) (m : Fin 8) (ty : Ty) (d : Dst) (a b : VSrc)
  | vsub (h : Head) (m : Fin 8) (ty : Ty) (d : Dst) (a b : VSrc)
  | vmul (h : Head) (m : Fin 8) (ty : Ty) (d : Dst) (a b : VSrc)
  | vmulh (h : Head) (m : Fin 8) (ty : Ty) (d : Dst) (a b : VSrc)
  | vmad (h : Head) (m : Fin 8) (ty : Ty) (d : Dst) (a b c : VSrc)
  | vadds (h : Head) (m : Fin 8) (ty : Ty) (d : Dst) (a b : VSrc)
  | vsubs (h : Head) (m : Fin 8) (ty : Ty) (d : Dst) (a b : VSrc)
  | vmin (h : Head) (m : Fin 8) (ty : Ty) (d : Dst) (a b : VSrc)
  | vmax (h : Head) (m : Fin 8) (ty : Ty) (d : Dst) (a b : VSrc)
  | vand (h : Head) (m : Fin 8) (ty : Ty) (d : Dst) (a b : VSrc)
  | vor (h : Head) (m : Fin 8) (ty : Ty) (d : Dst) (a b : VSrc)
  | vxor (h : Head) (m : Fin 8) (ty : Ty) (d : Dst) (a b : VSrc)
  | vshl (h : Head) (m : Fin 8) (ty : Ty) (d : Dst) (a b : VSrc)
  | vshr (h : Head) (m : Fin 8) (ty : Ty) (d : Dst) (a b : VSrc)
  | vabs (h : Head) (m : Fin 8) (ty : Ty) (d : Dst) (a : VSrc)
  | vmov (h : Head) (m : Fin 8) (ty : Ty) (d : Dst) (a : VSrc)
  | vfadd (h : Head) (m : Fin 8) (ty : Ty) (d : Dst) (a b : VSrc)
  | vfsub (h : Head) (m : Fin 8) (ty : Ty) (d : Dst) (a b : VSrc)
  | vfmul (h : Head) (m : Fin 8) (ty : Ty) (d : Dst) (a b : VSrc)
  | vfma (h : Head) (m : Fin 8) (ty : Ty) (d : Dst) (a b c : VSrc)
  | vfdiv (h : Head) (m : Fin 8) (ty : Ty) (d : Dst) (a b : VSrc)
  | vfsqrt (h : Head) (m : Fin 8) (ty : Ty) (d : Dst) (a : VSrc)
  | vfmin (h : Head) (m : Fin 8) (ty : Ty) (d : Dst) (a b : VSrc)
  | vfmax (h : Head) (m : Fin 8) (ty : Ty) (d : Dst) (a b : VSrc)
  | vfabs (h : Head) (m : Fin 8) (ty : Ty) (d : Dst) (a : VSrc)
  | vfneg (h : Head) (m : Fin 8) (ty : Ty) (d : Dst) (a : VSrc)
  | vfrcp (h : Head) (m : Fin 8) (ty : Ty) (d : Dst) (a : VSrc)
  | vfexp2 (h : Head) (m : Fin 8) (ty : Ty) (d : Dst) (a : VSrc)
  | vcvt (h : Head) (m : Fin 8) (dty sty : Ty) (pol : Option Pol) (part : Fin 16) (d : Dst) (a : VSrc)
  | vcbx (h : Head) (m : Fin 8) (ty : Ty) (bank : Fin 8) (kind : Fin 4) (part : Fin 8) (d : Dst) (a : VSrc)
  | vpack (h : Head) (m : Fin 8) (ty : Ty) (d : Dst) (a b : VSrc)
  | vunpack (h : Head) (m : Fin 8) (ty : Ty) (hi : Bool) (d : Dst) (a : VSrc)
  | vldexp (h : Head) (m : Fin 8) (ty : Ty) (d : Dst) (a b : VSrc)
  | vshuf (h : Head) (m : Fin 8) (ty : Ty) (d : Dst) (a b c : VSrc)
  | vbcast (h : Head) (m : Fin 8) (ty : Ty) (d : Dst) (a : Src)
  | vslide (h : Head) (m : Fin 8) (ty : Ty) (d : Dst) (a b : VSrc) (c : Src)
  | vzip (h : Head) (m : Fin 8) (ty : Ty) (hi : Bool) (d : Dst) (a b : VSrc)
  | vunzip (h : Head) (m : Fin 8) (ty : Ty) (hi : Bool) (d : Dst) (a b : VSrc)
  | vredsum (h : Head) (m : Fin 8) (ty : Ty) (d : Dst) (a b : VSrc)
  | vredmax (h : Head) (m : Fin 8) (ty : Ty) (d : Dst) (a b : VSrc)
  | vredmin (h : Head) (m : Fin 8) (ty : Ty) (d : Dst) (a b : VSrc)
  | vscan (h : Head) (m : Fin 8) (ty : Ty) (d : Dst) (a b : VSrc)
  | vtopk (h : Head) (m : Fin 8) (ty : Ty) (d : MDst) (a : VSrc) (b : Src)
  | vcmp (h : Head) (m : Fin 8) (c : Cond) (ty : Ty) (d : MDst) (a b : VSrc)
  | vmskAnd (h : Head) (d : MDst) (a b : MSrc)
  | vmskOr (h : Head) (d : MDst) (a b : MSrc)
  | vmskXor (h : Head) (d : MDst) (a b : MSrc)
  | vmskAndn (h : Head) (d : MDst) (a b : MSrc)
  | vmskNot (h : Head) (d : MDst) (a : MSrc)
  | vsel (h : Head) (m : Fin 8) (ty : Ty) (d : Dst) (a b : VSrc)
  | vmpop (h : Head) (ty : Ty) (d : Dst) (a : MSrc)
  | viota (h : Head) (m : Fin 8) (ty : Ty) (d : Dst) (a : MSrc)
  | vld (h : Head) (m : Fin 8) (ty : Ty) (d : Dst) (a b : Src)
  | vst (h : Head) (m : Fin 8) (ty : Ty) (a b : Src) (c : VSrc)
  | vlds (h : Head) (m : Fin 8) (ty : Ty) (d : Dst) (a b : Src)
  | vsts (h : Head) (m : Fin 8) (ty : Ty) (a b : Src) (c : VSrc)
  | vgath (h : Head) (m : Fin 8) (ty : Ty) (s : Fin 8) (d : Dst) (a : Src) (b : VSrc)
  | vscat (h : Head) (m : Fin 8) (ty : Ty) (s : Fin 8) (a : Src) (b c : VSrc)
  | vldsh (h : Head) (m : Fin 8) (ty : Ty) (w8 : Bool) (j0 : Fin 8) (pol : Option Pol) (d : Dst) (a : Src)
  | vstsh (h : Head) (m : Fin 8) (ty : Ty) (selmask aux : Fin 16) (w8 : Bool) (j0 bank : Fin 8) (half : Bool) (a : Src) (c : VSrc)
  | fld (h : Head) (f : Fin 64) (a b : Src)
  | fst (h : Head) (a b : Src) (f : Fin 64)
  | fset (h : Head) (fd : FField) (f : Fin 64) (a : Src)
  | fpatch (h : Head) (fd : FField) (f : Fin 64) (a : Src)
  | fpatchMem (h : Head) (fd : FField) (f : Fin 64) (a b : Src)
  | fgo (h : Head) (f : Fin 64)
  | fgoUnf (h : Head) (f : Fin 64) (p : Src)
  | fgoDec (h : Head) (f : Fin 64) (p : Src)
  | fgoCommandStart (core : Nat) (st : Stream)
  | fgoComplete (core : Nat) (st : Stream)
  | winset (h : Head) (w : Fin 8) (a b c : Src)
  | winq (h : Head) (d : Dst) (w : Fin 8) (sel : Bool)
  | cpy (h : Head) (at_ : Option (Fin 32)) (f : Fin 64) (t : Src)
  | cpyUnf (h : Head) (at_ : Option (Fin 32)) (f : Fin 64) (t p : Src)
  | cpyDec (h : Head) (at_ : Option (Fin 32)) (f : Fin 64) (t p : Src)
  | cpyRed (h : Head) (at_ : Option (Fin 32)) (f : Fin 64) (t : Src)
  | cpyOred (h : Head) (at_ : Option (Fin 32)) (f : Fin 64) (t p : Src)
  | cpyq (h : Head) (d : Dst) (a : Src)
  | timedCopyRelease (core : Nat)
  | shuttleCommandStart (core : Nat)
  | orderedReduceApply (core : Nat) (id : Nat)
  | copyComplete (core : Nat) (id : Nat)
  | storeWritePerformed (core : Nat) (st : Stream) (idx : Nat)
  | ldlLockGrant (core : Nat) (st : Stream)
  | weave (h : Head) (sp reed : Bool) (pair : Pair) (f : Fin 64) (b : Src) (acc raw : Bool)
  | scacc (h : Head) (a b : Src)
  | lmodeWrap (h : Head)
  | lmodeSat (h : Head)
  | lsync (h : Head)
  | accclr (h : Head) (a b : Src)
  | accld (h : Head) (a b c : Src)
  | accst (h : Head) (a b c : Src)
  | accaddRow (h : Head) (fp : Bool) (a b c : Src)
  | accaddCol (h : Head) (fp : Bool) (a b c : Src)
  | drain (h : Head) (ty : Ty) (pol : Pol) (clr : Bool) (a b c : Src)
  | mdcopy (h : Head) (a b c : Src)
  | cbld (h : Head) (bank : Fin 8) (a b : Src)
  | cbq (h : Head) (d : Dst) (bank : Fin 8)
  | reedld (h : Head) (t : Fin 4) (a b : Src)
  | reedselOn (h : Head) (t : Fin 4)
  | reedselOff (h : Head)
  | loomCommandStart (core : Nat)
  | loomStep (core : Nat)
  | loomCommandComplete (core : Nat)
  | granaryReadResume (core : Nat) (e : Engine)
  | launchQueueRecord (die q : Nat)
  | instancePlace (die node inst core : Nat)
  | instanceStart (core : Nat) (keep : Bool)
  | instanceAging (die node run : Nat)
  | iterationEnd (core : Nat)
  | graphEndSample (die q : Nat)
  | preemption (die node inst core : Nat)
  | preemptingRetire (core : Nat)
  | pcmdResume (core : Nat)
  | pcmdAbort (core : Nat)
  | pcmdRerun (core : Nat)
  | pcmdSave (core : Nat)
  | corePortWrite (core off bytes : Nat) (v : Word)
  | debugViewWrite (core off bytes : Nat) (v : Word)
  | parserPacket (die q : Nat)
  | parserSliceExpiry (die : Nat)
  | watchdogTimeout (core : Nat)
  | ringProducerStallTimeout (core : Nat) (victim : Bool)
  | reservationTimeout (die q ticket : Nat)
  | cmdPush (hart : Nat)
  | cmdPop (hart : Nat)
  | cmdStat (hart : Nat)
  | cmdCreate (hart : Nat)
  | cmdRestart (hart : Nat)
  | cmdDestroy (hart : Nat)
  | cmdRead (hart : Nat)
  | hstatRead (hart : Nat)
  | commandPageWrite (hart off : Nat) (v : Word)
  | dispatchStop (die : Nat) (inReeve : Bool)
  | journalReplay (die : Nat)
  | reeveHeartbeatTimeout (die : Nat)
  | reeveReload (die : Nat)
  | supervisorReload (plot : Nat)
  | draughtBudgetSet (plot budget : Nat)
  | plotReassign (plot partition : Nat)
  | mgmtSessionOpen (o : Offer)
  | imageUpdate (sess : Nat) (slot : Nat) (img : Image)
  | powerReset (sess : Nat) (op : PowerOp)
  | telemetry (sess : Nat)
  | console (sess : Nat) (input : List Byte)
  | bringUp
  | thermalThrottle (die : Nat) (temp : Nat) (budgets : List Nat)
  | thermalShutdown (temp : Nat)
  | coolantLoss
  | linkFlit (port : Nat) (crcOk : Bool) (load : FlitLoad)
  | linkDown (port : Nat)
  | moduleFence (module : Nat)
  | copyPoint (core : Nat) (e : Engine) (back : Nat)
  | linkUp (port peer : Nat)
  | exportTableWrite (n : Nat) (e : ExportEnt)
  | hostHartAccess (hart : Nat) (op : HartOp)
  | debugViewRead (core off bytes : Nat)
  | corePortRead (core off bytes : Nat)
  deriving DecidableEq, Repr

end Sys2Proof
end

