-- ==== Sys2Proof/Config.lean ====
section
/-! DEFINITION. What spec/ leaves open (free values, as functions without a body) and the
mathematics outside it (signatures and digests, R314 to R316). Nothing in Lean can evaluate these. -/

namespace Sys2Proof.Config

/-- A value the spec leaves undefined; its argument is the state's free-value counter (log 5). -/
opaque freeNat : Nat → Nat
/-- An undefined byte (log 5). -/
opaque freeByte : Nat → Byte
/-- SHA-384 of a byte string (R315, FIPS 180). -/
opaque sha384 : List Byte → List Byte
/-- ECDSA P-384 verification of a signature by a numbered public key (R314, R315, FIPS 186-5). -/
opaque ecdsaVerifies : Nat → List Byte → List Byte → Bool
/-- LMS verification of a signature by a numbered public key (R315, RFC 8554). -/
opaque lmsVerifies : Nat → List Byte → List Byte → Bool
/-- The digests of a key pair, as the boot ROM holds them for the root pair (R315). -/
opaque rootKeyPair : Nat
/-- The record that a KIND 5 image's payload holds (R315, R316); the payload's layout is not given. -/
opaque recordOf : List Byte → Option CfgRecord
/-- The identity key pair that the host die's unclonable function gives at each boot (R316). -/
opaque identityKey : Nat
/-- The entry that 64 bytes of the export table hold (R313); their layout is not given. -/
opaque exportOf : BitVec 512 → Option ExportEnt
/-- The 64 bytes that hold an entry of the export table (R313). -/
opaque exportBytes : Option ExportEnt → BitVec 512
/-- The bytes of a launch-journal entry (R312): a node's number, its SEQ, its launch record, and words 0 to
2 of its launch-queue record or its spawner's number; their layout is not given. -/
opaque launchEntry : Nat → Nat → BitVec 512 → BitVec 192 → Nat → BitVec 1024
/-- What 128 bytes of a launch-journal ring hold that are not those of an entry written there (R304, R312):
the same five values, or no entry. -/
opaque launchOf : List Byte → Option (Nat × Nat × BitVec 512 × BitVec 192 × Nat)
/-- The bytes of a telemetry answer (R314), whose contents the spec does not give. -/
opaque telemetryBytes : Nat → List Byte

end Sys2Proof.Config
end

