-- ==== Sys2Proof/Machine/Types.lean ====
section
/-! DEFINITION. Widths, classes and permitted sets of the type codes (R41, R54, R178), and the sizes
of accesses (R43). -/

namespace Sys2Proof

/-- The width of a type's elements in bits (R54, R56); a sheaf's codes for SH8 and SH4. -/
def Ty.width : Ty → Nat
  | .i64 | .n64 => 64
  | .i32 | .n32 | .f32 => 32
  | .i16 | .n16 | .f16 | .bf16 => 16
  | .i8 | .n8 | .e4m3 | .e5m2 | .sh8 => 8
  | .i4 | .n4 | .e2m1 | .sh4 => 4

/-- Number of lanes of a vector register at a type (R178). -/
def Ty.lanes (t : Ty) : Nat := 2048 / t.width

/-- Signed integer types. -/
def Ty.signed : Ty → Bool
  | .i64 | .i32 | .i16 | .i8 | .i4 => true
  | _ => false

/-- Integer types. -/
def Ty.isInt : Ty → Bool
  | .i64 | .i32 | .i16 | .i8 | .i4 | .n64 | .n32 | .n16 | .n8 | .n4 => true
  | _ => false

/-- Sheaf types. -/
def Ty.isSheaf : Ty → Bool
  | .sh8 | .sh4 => true
  | _ => false

/-- Float types with one value per element. -/
def Ty.isFloat (t : Ty) : Bool := !t.isInt && !t.isSheaf

/-- Types of the scalar layout SFN (R43), and of vector integer arithmetic (R185). -/
def Ty.sfn : Ty → Bool
  | .i64 | .i32 | .i16 | .i8 | .n64 | .n32 | .n16 | .n8 => true
  | _ => false

/-- Types of vector float arithmetic (R186). -/
def Ty.vfl : Ty → Bool
  | .f32 | .f16 | .bf16 => true
  | _ => false

/-- Types of 8 to 64 bits that are not sheaves (R191, R196, R202). -/
def Ty.ge8 (t : Ty) : Bool := !t.isSheaf && t.width != 4

/-- Types of reductions, scans and top-k (R197), and of compares with floats (R188). -/
def Ty.red (t : Ty) : Bool := t.sfn || t.vfl

/-- Destinations of `VPACK` (R193). -/
def Ty.packs : Ty → Bool
  | .i4 | .i8 | .i16 | .i32 | .n4 | .n8 | .n16 | .n32 => true
  | _ => false

/-- Output types of `DRAIN` (R253). -/
def Ty.drains : Ty → Bool
  | .i64 | .n64 => false
  | _ => true

/-- Types a codebook-expanded operand may have (R183). -/
def Ty.expands : Ty → Bool
  | .f32 | .f16 | .bf16 => true
  | t => t.sfn

/-- The signed integer type of a width (R194, R193). -/
def Ty.intOf (signed : Bool) (w : Nat) : Ty :=
  match w, signed with
  | 64, true => .i64 | 32, true => .i32 | 16, true => .i16 | 8, true => .i8 | _, true => .i4
  | 64, false => .n64 | 32, false => .n32 | 16, false => .n16 | 8, false => .n8 | _, false => .n4

/-- SIZE in bytes (R43). -/
def Size.bytes : Size → Nat
  | .b8 => 1 | .b16 => 2 | .b32 => 4 | .b64 => 8

/-- A stream's number in `cr.STATUS` (R33). -/
def Stream.num : Stream → Nat
  | .C => 0 | .L => 1 | .M => 2 | .V => 3 | .S => 4

/-- A sheaf pair (R46). -/
def Pair.sheaf : Pair → Bool
  | .s8s8 | .s4s4 | .s8s4 | .s4s8 => true
  | _ => false

/-- An integer pair (R79). -/
def Pair.int : Pair → Bool
  | .i8i8 | .n8i8 | .i8n8 | .n8n8 | .i4i4 => true
  | _ => false

/-- The element types of a pair (R46). -/
def Pair.tys : Pair → Ty × Ty
  | .i8i8 => (.i8, .i8) | .n8i8 => (.n8, .i8) | .i8n8 => (.i8, .n8) | .n8n8 => (.n8, .n8)
  | .i4i4 => (.i4, .i4)
  | .e4e4 => (.e4m3, .e4m3) | .e4e5 => (.e4m3, .e5m2) | .e5e4 => (.e5m2, .e4m3)
  | .e5e5 => (.e5m2, .e5m2) | .f16f16 => (.f16, .f16) | .bfbf => (.bf16, .bf16)
  | .s8s8 => (.sh8, .sh8) | .s4s4 => (.sh4, .sh4) | .s8s4 => (.sh8, .sh4) | .s4s8 => (.sh4, .sh8)

end Sys2Proof
end

