-- ==== Sys2Proof/Machine/Uses.lean ====
section
/-! DEFINITION. What decoding needs to know of an instruction: the registers and literals its
operand fields name (R38, R39, R17), the streams that run it (R9, R207), and its privilege (R31,
R147, R169). -/

namespace Sys2Proof

/-- What one operand field names: a register of a file that is read, the register of the MASK field, a
register that is written, an entry of the age queue, a literal in an operand of a width, or nothing of
these. -/
inductive Use where
  | g (n : Nat)
  | v (n : Nat)
  | m (n : Nat)
  | k (n : Nat)
  | dg (n : Nat)
  | dv (n : Nat)
  | dm (n : Nat)
  | age
  | lit (w : Nat)
  | none
  deriving DecidableEq, Repr

/-- A scalar source in an operand of `w` bits (R39). -/
def Src.use (w : Nat) : Src → Use
  | .reg n => .g n
  | .age _ => .age
  | .lit => .lit w
  | _ => .none

/-- A scalar destination. -/
def Dst.use : Dst → Use
  | .reg n => .dg n
  | .push => .none

/-- A scalar destination that is read too. -/
def Dst.both : Dst → Use
  | .reg n => .g n
  | .push => .none

/-- A vector destination: the same field, naming the `%v` file. -/
def Dst.vuse : Dst → Use
  | .reg n => .dv n
  | .push => .none

/-- A vector source of lane width `w`. -/
def VSrc.use (w : Nat) : VSrc → Use
  | .reg n => .v n
  | .cb _ n => .v n
  | .age _ => .age
  | .lit => .lit w
  | _ => .none

/-- A mask source. -/
def MSrc.use : MSrc → Use
  | .reg n => .m n
  | .age _ => .age

/-- A mask destination. -/
def MDst.use : MDst → Use
  | .reg n => .dm n
  | .push => .none

/-- The MASK field: 0 names no register (R17, R44). -/
def maskUse (m : Fin 8) : Use := if m = 0 then .none else .k m

/-- The time register of a timed copy (R221). -/
def timeUse : Option (Fin 32) → Use
  | some n => .g n
  | none => .none

/-- Everything the operand fields of an instruction name, destination first. Events name nothing. -/
def Instr.uses : Instr → List Use
  | .nop _ => []
  | .add _ ty d a b => [d.use, a.use ty.width, b.use ty.width]
  | .sub _ ty d a b => [d.use, a.use ty.width, b.use ty.width]
  | .mul _ ty d a b => [d.use, a.use ty.width, b.use ty.width]
  | .mulh _ ty d a b => [d.use, a.use ty.width, b.use ty.width]
  | .div _ ty d a b => [d.use, a.use ty.width, b.use ty.width]
  | .rem _ ty d a b => [d.use, a.use ty.width, b.use ty.width]
  | .and _ ty d a b => [d.use, a.use ty.width, b.use ty.width]
  | .or _ ty d a b => [d.use, a.use ty.width, b.use ty.width]
  | .xor _ ty d a b => [d.use, a.use ty.width, b.use ty.width]
  | .andn _ ty d a b => [d.use, a.use ty.width, b.use ty.width]
  | .shl _ ty d a b => [d.use, a.use ty.width, b.use ty.width]
  | .shr _ ty d a b => [d.use, a.use ty.width, b.use ty.width]
  | .sra _ ty d a b => [d.use, a.use ty.width, b.use ty.width]
  | .rot _ ty d a b => [d.use, a.use ty.width, b.use ty.width]
  | .min _ ty d a b => [d.use, a.use ty.width, b.use ty.width]
  | .max _ ty d a b => [d.use, a.use ty.width, b.use ty.width]
  | .mov _ ty d a => [d.use, a.use ty.width]
  | .clz _ ty d a => [d.use, a.use ty.width]
  | .popc _ ty d a => [d.use, a.use ty.width]
  | .ctz _ ty d a => [d.use, a.use ty.width]
  | .not _ ty d a => [d.use, a.use ty.width]
  | .neg _ ty d a => [d.use, a.use ty.width]
  | .cmp _ _ ty d a b => [d.use, a.use ty.width, b.use ty.width]
  | .sel _ ty d a b c => [d.use, a.use ty.width, b.use ty.width, c.use ty.width]
  | .ext _ _ d a b _ => [d.use, a.use 64, b.use 64]
  | .ins _ _ d a b _ => [d.both, a.use 64, b.use 64]
  | .addx _ _ ty d a b => [d.use, a.use ty.width, b.use ty.width]
  | .br _ _ _ _ a b t => [a.use 64, b.use 64, t.use 64]
  | .jmp _ t => [t.use 64]
  | .jmpAbs _ a => [a.use 64]
  | .call _ d t => [d.use, t.use 64]
  | .callAbs _ d a => [d.use, a.use 64]
  | .ret _ a => [a.use 64]
  | .loop _ d a t => [d.use, a.use 64, t.use 64]
  | .ld _ _ _ _ _ d a b => [d.use, a.use 64, b.use 64]
  | .st _ _ _ sz a b c => [a.use 64, b.use 64, c.use (8 * sz.bytes)]
  | .ldl _ _ _ d a b => [d.use, a.use 64, b.use 64]
  | .stu _ sz a b c => [a.use 64, b.use 64, c.use (8 * sz.bytes)]
  | .amoAdd _ w _ d a b => [d.use, a.use 64, b.use (if w then 64 else 32)]
  | .amoAnd _ w _ d a b => [d.use, a.use 64, b.use (if w then 64 else 32)]
  | .amoOr _ w _ d a b => [d.use, a.use 64, b.use (if w then 64 else 32)]
  | .amoXor _ w _ d a b => [d.use, a.use 64, b.use (if w then 64 else 32)]
  | .amoSmin _ w _ d a b => [d.use, a.use 64, b.use (if w then 64 else 32)]
  | .amoSmax _ w _ d a b => [d.use, a.use 64, b.use (if w then 64 else 32)]
  | .amoUmin _ w _ d a b => [d.use, a.use 64, b.use (if w then 64 else 32)]
  | .amoUmax _ w _ d a b => [d.use, a.use 64, b.use (if w then 64 else 32)]
  | .amoSwap _ w _ d a b => [d.use, a.use 64, b.use (if w then 64 else 32)]
  | .amoCas _ w _ d a b c => [d.use, a.use 64, b.use (if w then 64 else 32), c.use (if w then 64 else 32)]
  | .pref _ a b => [a.use 64, b.use 64]
  | .csrd _ d _ => [d.use]
  | .cswr _ d _ a => [d.use, a.use 64]
  | .csset _ d _ a => [d.use, a.use 64]
  | .csclr _ d _ a => [d.use, a.use 64]
  | .svc _ _ => []
  | .brk _ _ => []
  | .retf _ => []
  | .nudgearm _ d a b => [d.use, a.use 64, b.use 64]
  | .nudgeret _ => []
  | .waiti _ => []
  | .pause _ a => [a.use 64]
  | .fence _ _ => []
  | .fenceX _ _ => []
  | .tlbinv _ => []
  | .tlbinvA _ a b => [a.use 64, b.use 64]
  | .grwr _ a b c => [a.use 64, b.use 64, c.use 64]
  | .grq _ d a => [d.use, a.use 64]
  | .remapset _ a b c => [a.use 64, b.use 64, c.use 64]
  | .semwait _ _ b => [b.use 64]
  | .sempost _ _ b => [b.use 64]
  | .semset _ d _ b => [d.use, b.use 64]
  | .semrd _ d _ => [d.use]
  | .rdv _ => []
  | .spawn _ d a => [d.use, a.use 64]
  | .tagset _ d a => [d.use, a.use 64]
  | .qdrop _ _ d a => [d.use, a.use 64]
  | .wqrsv _ d a => [d.use, a.use 64]
  | .wqpush _ d a b => [d.use, a.use 64, b.use 64]
  | .wqcmt _ d a b c => [d.use, a.use 64, b.use 64, c.use 64]
  | .wqpop _ _ d a b => [d.use, a.use 64, b.use 64]
  | .wqstat _ d a => [d.use, a.use 64]
  | .wqctlCreate _ d a b => [d.use, a.use 64, b.use 64]
  | .wqctlRestart _ d a b => [d.use, a.use 64, b.use 64]
  | .wqctlDestroy _ d a b => [d.use, a.use 64, b.use 64]
  | .wqctlRead _ d a b => [d.use, a.use 64, b.use 64]
  | .tbarm _ _ _ d a b c => [d.use, a.use 64, b.use 64, c.use 64]
  | .tbwait _ d a b => [d.use, a.use 64, b.use 64]
  | .tbarrive _ a b c => [a.use 64, b.use 64, c.use 64]
  | .vadd _ m ty d a b => [maskUse m, d.vuse, a.use ty.width, b.use ty.width]
  | .vsub _ m ty d a b => [maskUse m, d.vuse, a.use ty.width, b.use ty.width]
  | .vmul _ m ty d a b => [maskUse m, d.vuse, a.use ty.width, b.use ty.width]
  | .vmulh _ m ty d a b => [maskUse m, d.vuse, a.use ty.width, b.use ty.width]
  | .vadds _ m ty d a b => [maskUse m, d.vuse, a.use ty.width, b.use ty.width]
  | .vsubs _ m ty d a b => [maskUse m, d.vuse, a.use ty.width, b.use ty.width]
  | .vmin _ m ty d a b => [maskUse m, d.vuse, a.use ty.width, b.use ty.width]
  | .vmax _ m ty d a b => [maskUse m, d.vuse, a.use ty.width, b.use ty.width]
  | .vand _ m ty d a b => [maskUse m, d.vuse, a.use ty.width, b.use ty.width]
  | .vor _ m ty d a b => [maskUse m, d.vuse, a.use ty.width, b.use ty.width]
  | .vxor _ m ty d a b => [maskUse m, d.vuse, a.use ty.width, b.use ty.width]
  | .vshl _ m ty d a b => [maskUse m, d.vuse, a.use ty.width, b.use ty.width]
  | .vshr _ m ty d a b => [maskUse m, d.vuse, a.use ty.width, b.use ty.width]
  | .vfadd _ m ty d a b => [maskUse m, d.vuse, a.use ty.width, b.use ty.width]
  | .vfsub _ m ty d a b => [maskUse m, d.vuse, a.use ty.width, b.use ty.width]
  | .vfmul _ m ty d a b => [maskUse m, d.vuse, a.use ty.width, b.use ty.width]
  | .vfdiv _ m ty d a b => [maskUse m, d.vuse, a.use ty.width, b.use ty.width]
  | .vfmin _ m ty d a b => [maskUse m, d.vuse, a.use ty.width, b.use ty.width]
  | .vfmax _ m ty d a b => [maskUse m, d.vuse, a.use ty.width, b.use ty.width]
  | .vredsum _ m ty d a b => [maskUse m, d.vuse, a.use ty.width, b.use ty.width]
  | .vredmax _ m ty d a b => [maskUse m, d.vuse, a.use ty.width, b.use ty.width]
  | .vredmin _ m ty d a b => [maskUse m, d.vuse, a.use ty.width, b.use ty.width]
  | .vscan _ m ty d a b => [maskUse m, d.vuse, a.use ty.width, b.use ty.width]
  | .vmad _ m ty d a b c => [maskUse m, d.vuse, a.use ty.width, b.use ty.width, c.use ty.width]
  | .vfma _ m ty d a b c => [maskUse m, d.vuse, a.use ty.width, b.use ty.width, c.use ty.width]
  | .vabs _ m ty d a => [maskUse m, d.vuse, a.use ty.width]
  | .vmov _ m ty d a => [maskUse m, d.vuse, a.use ty.width]
  | .vfsqrt _ m ty d a => [maskUse m, d.vuse, a.use ty.width]
  | .vfabs _ m ty d a => [maskUse m, d.vuse, a.use ty.width]
  | .vfneg _ m ty d a => [maskUse m, d.vuse, a.use ty.width]
  | .vfrcp _ m ty d a => [maskUse m, d.vuse, a.use ty.width]
  | .vfexp2 _ m ty d a => [maskUse m, d.vuse, a.use ty.width]
  | .vcvt _ m _ sty _ _ d a => [maskUse m, d.vuse, a.use sty.width]
  | .vcbx _ m ty _ _ _ d a => [maskUse m, d.vuse, a.use ty.width]
  | .vpack _ m ty d a b => [maskUse m, d.vuse, a.use (2 * ty.width), b.use (2 * ty.width)]
  | .vunpack _ m ty _ d a => [maskUse m, d.vuse, a.use (ty.width / 2)]
  | .vldexp _ m ty d a b => [maskUse m, d.vuse, a.use ty.width, b.use ty.width]
  | .vshuf _ m ty d a b c => [maskUse m, d.vuse, a.use ty.width, b.use ty.width, c.use ty.width]
  | .vbcast _ m _ d a => [maskUse m, d.vuse, a.use 64]
  | .vslide _ m ty d a b c => [maskUse m, d.vuse, a.use ty.width, b.use ty.width, c.use 64]
  | .vzip _ m ty _ d a b => [maskUse m, d.vuse, a.use ty.width, b.use ty.width]
  | .vunzip _ m ty _ d a b => [maskUse m, d.vuse, a.use ty.width, b.use ty.width]
  | .vtopk _ m ty d a b => [maskUse m, d.use, a.use ty.width, b.use 64]
  | .vcmp _ m _ ty d a b => [maskUse m, d.use, a.use ty.width, b.use ty.width]
  | .vmskAnd _ d a b => [d.use, a.use, b.use]
  | .vmskOr _ d a b => [d.use, a.use, b.use]
  | .vmskXor _ d a b => [d.use, a.use, b.use]
  | .vmskAndn _ d a b => [d.use, a.use, b.use]
  | .vmskNot _ d a => [d.use, a.use]
  | .vsel _ m ty d a b => [maskUse m, d.vuse, a.use ty.width, b.use ty.width]
  | .vmpop _ _ d a => [d.use, a.use]
  | .viota _ m _ d a => [maskUse m, d.vuse, a.use]
  | .vld _ m _ d a b => [maskUse m, d.vuse, a.use 64, b.use 64]
  | .vlds _ m _ d a b => [maskUse m, d.vuse, a.use 64, b.use 64]
  | .vst _ m ty a b c => [maskUse m, a.use 64, b.use 64, c.use ty.width]
  | .vsts _ m ty a b c => [maskUse m, a.use 64, b.use 64, c.use ty.width]
  | .vgath _ m ty _ d a b => [maskUse m, d.vuse, a.use 64, b.use ty.width]
  | .vscat _ m ty _ a b c => [maskUse m, a.use 64, b.use ty.width, c.use ty.width]
  | .vldsh _ m _ _ _ _ d a => [maskUse m, d.vuse, a.use 64]
  | .vstsh _ m ty _ _ _ _ _ _ a c => [maskUse m, a.use 64, c.use ty.width]
  | .fld _ _ a b => [a.use 64, b.use 64]
  | .fst _ a b _ => [a.use 64, b.use 64]
  | .fset _ _ _ a => [a.use 64]
  | .fpatch _ _ _ a => [a.use 64]
  | .fpatchMem _ _ _ a b => [a.use 64, b.use 64]
  | .fgo _ _ => []
  | .fgoUnf _ _ p => [p.use 64]
  | .fgoDec _ _ p => [p.use 64]
  | .winset _ _ a b c => [a.use 64, b.use 64, c.use 64]
  | .winq _ d _ _ => [d.use]
  | .cpy _ at_ _ t => [timeUse at_, t.use 64]
  | .cpyRed _ at_ _ t => [timeUse at_, t.use 64]
  | .cpyUnf _ at_ _ t p => [timeUse at_, t.use 64, p.use 64]
  | .cpyDec _ at_ _ t p => [timeUse at_, t.use 64, p.use 64]
  | .cpyOred _ at_ _ t p => [timeUse at_, t.use 64, p.use 64]
  | .cpyq _ d a => [d.use, a.use 64]
  | .weave _ _ _ _ _ b _ _ => [b.use 64]
  | .scacc _ a b => [a.use 64, b.use 64]
  | .lmodeWrap _ => []
  | .lmodeSat _ => []
  | .lsync _ => []
  | .accclr _ a b => [a.use 64, b.use 64]
  | .accld _ a b c => [a.use 64, b.use 64, c.use 64]
  | .accst _ a b c => [a.use 64, b.use 64, c.use 64]
  | .accaddRow _ _ a b c => [a.use 64, b.use 64, c.use 32]
  | .accaddCol _ _ a b c => [a.use 64, b.use 64, c.use 32]
  | .drain _ _ _ _ a b c => [a.use 64, b.use 64, c.use 64]
  | .mdcopy _ a b c => [a.use 64, b.use 64, c.use 64]
  | .cbld _ _ a b => [a.use 64, b.use 64]
  | .cbq _ d _ => [d.use]
  | .reedld _ _ a b => [a.use 64, b.use 64]
  | .reedselOn _ _ => []
  | .reedselOff _ => []
  | .pauseEnd _ _ => []
  | .fenceXJoin _ _ => []
  | .waitGrant _ _ => []
  | .nudgeDelivery _ => []
  | .fgoCommandStart _ _ => []
  | .fgoComplete _ _ => []
  | .timedCopyRelease _ => []
  | .shuttleCommandStart _ => []
  | .orderedReduceApply _ _ => []
  | .copyComplete _ _ => []
  | .storeWritePerformed _ _ _ => []
  | .ldlLockGrant _ _ => []
  | .loomCommandStart _ => []
  | .loomStep _ => []
  | .loomCommandComplete _ => []
  | .granaryReadResume _ _ => []
  | .launchQueueRecord _ _ => []
  | .instancePlace _ _ _ _ => []
  | .instanceStart _ _ => []
  | .instanceAging _ _ _ => []
  | .iterationEnd _ => []
  | .graphEndSample _ _ => []
  | .preemption _ _ _ _ => []
  | .preemptingRetire _ => []
  | .pcmdResume _ => []
  | .pcmdAbort _ => []
  | .pcmdRerun _ => []
  | .pcmdSave _ => []
  | .corePortWrite _ _ _ _ => []
  | .debugViewWrite _ _ _ _ => []
  | .parserPacket _ _ => []
  | .parserSliceExpiry _ => []
  | .watchdogTimeout _ => []
  | .ringProducerStallTimeout _ _ => []
  | .reservationTimeout _ _ _ => []
  | .cmdPush _ => []
  | .cmdPop _ => []
  | .cmdStat _ => []
  | .cmdCreate _ => []
  | .cmdRestart _ => []
  | .cmdDestroy _ => []
  | .cmdRead _ => []
  | .hstatRead _ => []
  | .commandPageWrite _ _ _ => []
  | .dispatchStop _ _ => []
  | .journalReplay _ => []
  | .reeveHeartbeatTimeout _ => []
  | .reeveReload _ => []
  | .supervisorReload _ => []
  | .draughtBudgetSet _ _ => []
  | .plotReassign _ _ => []
  | .mgmtSessionOpen _ => []
  | .imageUpdate _ _ _ => []
  | .powerReset _ _ => []
  | .telemetry _ => []
  | .console _ _ => []
  | .bringUp => []
  | .thermalThrottle _ _ _ => []
  | .thermalShutdown _ => []
  | .coolantLoss => []
  | .linkFlit _ _ _ => []
  | .linkDown _ => []
  | .moduleFence _ => []
  | .copyPoint _ _ _ => []
  | .linkUp _ _ => []
  | .exportTableWrite _ _ => []
  | .hostHartAccess _ _ => []
  | .debugViewRead _ _ _ => []
  | .corePortRead _ _ _ => []

/-- The wait, post and literal fields of an instruction; an event has none. -/
def Instr.head? : Instr → Option Head
  | .nop h => some h
  | .add h _ _ _ _ => some h
  | .sub h _ _ _ _ => some h
  | .mul h _ _ _ _ => some h
  | .mulh h _ _ _ _ => some h
  | .div h _ _ _ _ => some h
  | .rem h _ _ _ _ => some h
  | .and h _ _ _ _ => some h
  | .or h _ _ _ _ => some h
  | .xor h _ _ _ _ => some h
  | .andn h _ _ _ _ => some h
  | .shl h _ _ _ _ => some h
  | .shr h _ _ _ _ => some h
  | .sra h _ _ _ _ => some h
  | .rot h _ _ _ _ => some h
  | .min h _ _ _ _ => some h
  | .max h _ _ _ _ => some h
  | .mov h _ _ _ => some h
  | .clz h _ _ _ => some h
  | .popc h _ _ _ => some h
  | .ctz h _ _ _ => some h
  | .not h _ _ _ => some h
  | .neg h _ _ _ => some h
  | .cmp h _ _ _ _ _ => some h
  | .sel h _ _ _ _ _ => some h
  | .ext h _ _ _ _ _ => some h
  | .ins h _ _ _ _ _ => some h
  | .addx h _ _ _ _ _ => some h
  | .br h _ _ _ _ _ _ => some h
  | .jmp h _ => some h
  | .jmpAbs h _ => some h
  | .call h _ _ => some h
  | .callAbs h _ _ => some h
  | .ret h _ => some h
  | .loop h _ _ _ => some h
  | .ld h _ _ _ _ _ _ _ => some h
  | .st h _ _ _ _ _ _ => some h
  | .ldl h _ _ _ _ _ => some h
  | .stu h _ _ _ _ => some h
  | .amoAdd h _ _ _ _ _ => some h
  | .amoAnd h _ _ _ _ _ => some h
  | .amoOr h _ _ _ _ _ => some h
  | .amoXor h _ _ _ _ _ => some h
  | .amoSmin h _ _ _ _ _ => some h
  | .amoSmax h _ _ _ _ _ => some h
  | .amoUmin h _ _ _ _ _ => some h
  | .amoUmax h _ _ _ _ _ => some h
  | .amoSwap h _ _ _ _ _ => some h
  | .amoCas h _ _ _ _ _ _ => some h
  | .pref h _ _ => some h
  | .csrd h _ _ => some h
  | .cswr h _ _ _ => some h
  | .csset h _ _ _ => some h
  | .csclr h _ _ _ => some h
  | .svc h _ => some h
  | .brk h _ => some h
  | .retf h => some h
  | .nudgearm h _ _ _ => some h
  | .nudgeret h => some h
  | .waiti h => some h
  | .pause h _ => some h
  | .fence h _ => some h
  | .fenceX h _ => some h
  | .tlbinv h => some h
  | .tlbinvA h _ _ => some h
  | .grwr h _ _ _ => some h
  | .grq h _ _ => some h
  | .remapset h _ _ _ => some h
  | .semwait h _ _ => some h
  | .sempost h _ _ => some h
  | .semset h _ _ _ => some h
  | .semrd h _ _ => some h
  | .rdv h => some h
  | .spawn h _ _ => some h
  | .tagset h _ _ => some h
  | .qdrop h _ _ _ => some h
  | .wqrsv h _ _ => some h
  | .wqpush h _ _ _ => some h
  | .wqcmt h _ _ _ _ => some h
  | .wqpop h _ _ _ _ => some h
  | .wqstat h _ _ => some h
  | .wqctlCreate h _ _ _ => some h
  | .wqctlRestart h _ _ _ => some h
  | .wqctlDestroy h _ _ _ => some h
  | .wqctlRead h _ _ _ => some h
  | .tbarm h _ _ _ _ _ _ => some h
  | .tbwait h _ _ _ => some h
  | .tbarrive h _ _ _ => some h
  | .vadd h _ _ _ _ _ => some h
  | .vsub h _ _ _ _ _ => some h
  | .vmul h _ _ _ _ _ => some h
  | .vmulh h _ _ _ _ _ => some h
  | .vadds h _ _ _ _ _ => some h
  | .vsubs h _ _ _ _ _ => some h
  | .vmin h _ _ _ _ _ => some h
  | .vmax h _ _ _ _ _ => some h
  | .vand h _ _ _ _ _ => some h
  | .vor h _ _ _ _ _ => some h
  | .vxor h _ _ _ _ _ => some h
  | .vshl h _ _ _ _ _ => some h
  | .vshr h _ _ _ _ _ => some h
  | .vfadd h _ _ _ _ _ => some h
  | .vfsub h _ _ _ _ _ => some h
  | .vfmul h _ _ _ _ _ => some h
  | .vfdiv h _ _ _ _ _ => some h
  | .vfmin h _ _ _ _ _ => some h
  | .vfmax h _ _ _ _ _ => some h
  | .vredsum h _ _ _ _ _ => some h
  | .vredmax h _ _ _ _ _ => some h
  | .vredmin h _ _ _ _ _ => some h
  | .vscan h _ _ _ _ _ => some h
  | .vmad h _ _ _ _ _ _ => some h
  | .vfma h _ _ _ _ _ _ => some h
  | .vabs h _ _ _ _ => some h
  | .vmov h _ _ _ _ => some h
  | .vfsqrt h _ _ _ _ => some h
  | .vfabs h _ _ _ _ => some h
  | .vfneg h _ _ _ _ => some h
  | .vfrcp h _ _ _ _ => some h
  | .vfexp2 h _ _ _ _ => some h
  | .vcvt h _ _ _ _ _ _ _ => some h
  | .vcbx h _ _ _ _ _ _ _ => some h
  | .vpack h _ _ _ _ _ => some h
  | .vunpack h _ _ _ _ _ => some h
  | .vldexp h _ _ _ _ _ => some h
  | .vshuf h _ _ _ _ _ _ => some h
  | .vbcast h _ _ _ _ => some h
  | .vslide h _ _ _ _ _ _ => some h
  | .vzip h _ _ _ _ _ _ => some h
  | .vunzip h _ _ _ _ _ _ => some h
  | .vtopk h _ _ _ _ _ => some h
  | .vcmp h _ _ _ _ _ _ => some h
  | .vmskAnd h _ _ _ => some h
  | .vmskOr h _ _ _ => some h
  | .vmskXor h _ _ _ => some h
  | .vmskAndn h _ _ _ => some h
  | .vmskNot h _ _ => some h
  | .vsel h _ _ _ _ _ => some h
  | .vmpop h _ _ _ => some h
  | .viota h _ _ _ _ => some h
  | .vld h _ _ _ _ _ => some h
  | .vlds h _ _ _ _ _ => some h
  | .vst h _ _ _ _ _ => some h
  | .vsts h _ _ _ _ _ => some h
  | .vgath h _ _ _ _ _ _ => some h
  | .vscat h _ _ _ _ _ _ => some h
  | .vldsh h _ _ _ _ _ _ _ => some h
  | .vstsh h _ _ _ _ _ _ _ _ _ _ => some h
  | .fld h _ _ _ => some h
  | .fst h _ _ _ => some h
  | .fset h _ _ _ => some h
  | .fpatch h _ _ _ => some h
  | .fpatchMem h _ _ _ _ => some h
  | .fgo h _ => some h
  | .fgoUnf h _ _ => some h
  | .fgoDec h _ _ => some h
  | .winset h _ _ _ _ => some h
  | .winq h _ _ _ => some h
  | .cpy h _ _ _ => some h
  | .cpyRed h _ _ _ => some h
  | .cpyUnf h _ _ _ _ => some h
  | .cpyDec h _ _ _ _ => some h
  | .cpyOred h _ _ _ _ => some h
  | .cpyq h _ _ => some h
  | .weave h _ _ _ _ _ _ _ => some h
  | .scacc h _ _ => some h
  | .lmodeWrap h => some h
  | .lmodeSat h => some h
  | .lsync h => some h
  | .accclr h _ _ => some h
  | .accld h _ _ _ => some h
  | .accst h _ _ _ => some h
  | .accaddRow h _ _ _ _ => some h
  | .accaddCol h _ _ _ _ => some h
  | .drain h _ _ _ _ _ _ => some h
  | .mdcopy h _ _ _ => some h
  | .cbld h _ _ _ => some h
  | .cbq h _ _ => some h
  | .reedld h _ _ _ => some h
  | .reedselOn h _ => some h
  | .reedselOff h => some h
  | .pauseEnd _ _ => none
  | .fenceXJoin _ _ => none
  | .waitGrant _ _ => none
  | .nudgeDelivery _ => none
  | .fgoCommandStart _ _ => none
  | .fgoComplete _ _ => none
  | .timedCopyRelease _ => none
  | .shuttleCommandStart _ => none
  | .orderedReduceApply _ _ => none
  | .copyComplete _ _ => none
  | .storeWritePerformed _ _ _ => none
  | .ldlLockGrant _ _ => none
  | .loomCommandStart _ => none
  | .loomStep _ => none
  | .loomCommandComplete _ => none
  | .granaryReadResume _ _ => none
  | .launchQueueRecord _ _ => none
  | .instancePlace _ _ _ _ => none
  | .instanceStart _ _ => none
  | .instanceAging _ _ _ => none
  | .iterationEnd _ => none
  | .graphEndSample _ _ => none
  | .preemption _ _ _ _ => none
  | .preemptingRetire _ => none
  | .pcmdResume _ => none
  | .pcmdAbort _ => none
  | .pcmdRerun _ => none
  | .pcmdSave _ => none
  | .corePortWrite _ _ _ _ => none
  | .debugViewWrite _ _ _ _ => none
  | .parserPacket _ _ => none
  | .parserSliceExpiry _ => none
  | .watchdogTimeout _ => none
  | .ringProducerStallTimeout _ _ => none
  | .reservationTimeout _ _ _ => none
  | .cmdPush _ => none
  | .cmdPop _ => none
  | .cmdStat _ => none
  | .cmdCreate _ => none
  | .cmdRestart _ => none
  | .cmdDestroy _ => none
  | .cmdRead _ => none
  | .hstatRead _ => none
  | .commandPageWrite _ _ _ => none
  | .dispatchStop _ _ => none
  | .journalReplay _ => none
  | .reeveHeartbeatTimeout _ => none
  | .reeveReload _ => none
  | .supervisorReload _ => none
  | .draughtBudgetSet _ _ => none
  | .plotReassign _ _ => none
  | .mgmtSessionOpen _ => none
  | .imageUpdate _ _ _ => none
  | .powerReset _ _ => none
  | .telemetry _ => none
  | .console _ _ => none
  | .bringUp => none
  | .thermalThrottle _ _ _ => none
  | .thermalShutdown _ => none
  | .coolantLoss => none
  | .linkFlit _ _ _ => none
  | .linkDown _ => none
  | .moduleFence _ => none
  | .copyPoint _ _ _ => none
  | .linkUp _ _ => none
  | .exportTableWrite _ _ => none
  | .hostHartAccess _ _ => none
  | .debugViewRead _ _ _ => none
  | .corePortRead _ _ _ => none

/-- The fields of a head without wait, post and literal. -/
def Head.zero : Head := ⟨0, 0, 0, 0, .none⟩

/-- The head of an instruction, the zero head for an event. -/
def Instr.head (i : Instr) : Head := i.head?.getD Head.zero

/-- The bytes of a literal (R39). -/
def Lit.bytes : Lit → Nat
  | .none => 0
  | .l32 _ => 4
  | .l64 _ => 8

/-- The length of an instruction in memory (R39). -/
def Head.len (h : Head) : Nat := match h.lit with | .none => 8 | _ => 16

/-- The streams that run an opcode (R9, R207, R219). -/
def opStreams (op : Byte) : List Stream :=
  if op = 0x47 ∨ op = 0x48 ∨ op = 0x49 then [.C]
  else if op = 0xC4 then [.L, .S]
  else if op = 0xF1 ∨ op = 0xF2 then [.L, .M, .S]
  else if 0xE0 ≤ op then [.M]
  else if 0xC0 ≤ op then [.C, .L, .S]
  else if 0x70 ≤ op then [.V]
  else [.C, .L, .M, .V, .S]

/-- The opcode, and the low bits of field B that make a control register number privileged (R31,
R147, R169). -/
def opPriv (op : Byte) (b : Byte) : Bool :=
  op = 0x4D || op = 0x4E || op = 0x4F || op = 0x65 ||
    ((op = 0x40 || op = 0x41 || op = 0x42 || op = 0x43) && b.getLsbD 0)

end Sys2Proof
end

