-- ==== Sys2Proof/WellFormed.lean ====
section
/-! DEFINITION. Which terms of `Instr` are instructions: the requirements of R37 to R47 and of each
instruction's own rule on what its fields may hold. Decoding produces only these; each check refuses
by making `wf` false. -/

namespace Sys2Proof

/-- An assigned control register number (R31, R32, R35). -/
def crnAssigned (n : BitVec 9) : Bool :=
  n.toNat ≤ 0x1A || (0x80 ≤ n.toNat && n.toNat ≤ 0x8F) || (0x100 ≤ n.toNat && n.toNat ≤ 0x10A)

/-- The number of parts of a conversion (R192). -/
def cvtParts (dst src : Ty) : Nat := max dst.width src.width / min dst.width src.width

/-- The combinations of `VCBX` (R195). -/
def cbxOk (t : Ty) (kind : Fin 4) (part : Fin 8) : Bool :=
  match kind.val, t with
  | 0, .f32 => part < 4
  | 0, .f16 | 0, .bf16 => part < 2
  | 1, .f16 | 2, .i8 => true
  | _, _ => false

/-- A register or age operand, as `VCBX` requires (R195). -/
def VSrc.plain : VSrc → Bool
  | .reg _ | .age _ => true
  | _ => false

/-- Class 10 only with a type that R183 expands. -/
def VSrc.cbOk (exp : Bool) : VSrc → Bool
  | .cb _ _ => exp
  | _ => true

/-- Fields `FPATCH` admits (R215). -/
def FField.patchable : FField → Bool
  | .bound _ | .base _ | .target _ => true
  | _ => false

/-- Combinations of `WEAVE` (R239). -/
def weaveOk (sp rd : Bool) (p : Pair) (raw : Bool) : Bool :=
  !(sp && (p == .i4i4 || p.sheaf)) && !(sp && rd) && !(raw && !p.sheaf)

/-- R37 and R39: a semaphore is named only with an amount, at most one operand is a literal, it has
the literal it calls for, and a 64-bit literal stands only in an operand wider than 32 bits. -/
def Head.wf (h : Head) (u : List Use) : Bool :=
  let ws := u.filterMap fun | .lit w => some w | _ => Option.none
  (h.wamt != 0 || h.wsem == 0) && (h.pamt != 0 || h.psem == 0) &&
    match h.lit with
    | .none => ws.isEmpty
    | .l32 _ => ws.length == 1
    | .l64 _ => ws.length == 1 && ws.all (32 < ·)

/-- What each instruction requires of its type, modifiers and operand classes. -/
def Instr.form : Instr → Bool
  | .nop _ => true
  | .add _ ty _ _ _ => ty.sfn
  | .sub _ ty _ _ _ => ty.sfn
  | .mul _ ty _ _ _ => ty.sfn
  | .mulh _ ty _ _ _ => ty.sfn
  | .div _ ty _ _ _ => ty.sfn
  | .rem _ ty _ _ _ => ty.sfn
  | .and _ ty _ _ _ => ty.sfn
  | .or _ ty _ _ _ => ty.sfn
  | .xor _ ty _ _ _ => ty.sfn
  | .andn _ ty _ _ _ => ty.sfn
  | .shl _ ty _ _ _ => ty.sfn
  | .shr _ ty _ _ _ => ty.sfn
  | .sra _ ty _ _ _ => ty.sfn
  | .rot _ ty _ _ _ => ty.sfn
  | .mov _ ty _ _ => ty.sfn
  | .clz _ ty _ _ => ty.sfn
  | .popc _ ty _ _ => ty.sfn
  | .ctz _ ty _ _ => ty.sfn
  | .not _ ty _ _ => ty.sfn
  | .neg _ ty _ _ => ty.sfn
  | .min _ ty _ _ _ => ty.sfn
  | .max _ ty _ _ _ => ty.sfn
  | .cmp _ _ ty _ _ _ => ty.sfn
  | .sel _ ty _ _ _ _ => ty.sfn
  | .ext _ ty _ _ _ _ => ty == .i64 || ty == .n64
  | .ins _ ty d _ _ _ => (ty == .i64 || ty == .n64) && d != .push
  | .addx _ _ ty _ _ _ => ty.sfn
  | .br _ _ _ _ _ _ _ => true
  | .jmp _ _ => true
  | .jmpAbs _ _ => true
  | .call _ _ _ => true
  | .callAbs _ _ _ => true
  | .ret _ _ => true
  | .loop _ _ _ _ => true
  | .ld _ sc acq _ _ _ _ _ => acq || sc == .stream
  | .st _ sc rel _ _ _ _ => rel || sc == .stream
  | .ldl _ _ _ _ _ _ => true
  | .stu _ _ _ _ _ => true
  | .amoAdd _ _ _ _ _ _ => true
  | .amoAnd _ _ _ _ _ _ => true
  | .amoOr _ _ _ _ _ _ => true
  | .amoXor _ _ _ _ _ _ => true
  | .amoSmin _ _ _ _ _ _ => true
  | .amoSmax _ _ _ _ _ _ => true
  | .amoUmin _ _ _ _ _ _ => true
  | .amoUmax _ _ _ _ _ _ => true
  | .amoSwap _ _ _ _ _ _ => true
  | .amoCas _ _ _ _ _ _ _ => true
  | .pref _ _ _ => true
  | .csrd _ _ crn => crnAssigned crn
  | .cswr _ _ crn _ => crnAssigned crn
  | .csset _ _ crn _ => crnAssigned crn
  | .csclr _ _ crn _ => crnAssigned crn
  | .svc _ _ => true
  | .brk _ _ => true
  | .retf _ => true
  | .nudgearm _ _ _ _ => true
  | .nudgeret _ => true
  | .waiti _ => true
  | .pause _ _ => true
  | .pauseEnd _ _ => false
  | .fence _ _ => true
  | .fenceX _ _ => true
  | .fenceXJoin _ _ => false
  | .tlbinv _ => true
  | .tlbinvA _ _ _ => true
  | .grwr _ _ _ _ => true
  | .grq _ _ _ => true
  | .remapset _ _ _ _ => true
  | .semwait _ _ _ => true
  | .sempost _ _ _ => true
  | .semset _ _ _ _ => true
  | .semrd _ _ _ => true
  | .waitGrant _ _ => false
  | .rdv _ => true
  | .spawn _ _ _ => true
  | .tagset _ _ _ => true
  | .qdrop _ _ _ _ => true
  | .wqrsv _ _ _ => true
  | .wqpush _ _ _ _ => true
  | .wqcmt _ _ _ _ _ => true
  | .wqpop _ _ _ _ _ => true
  | .wqstat _ _ _ => true
  | .wqctlCreate _ _ _ _ => true
  | .wqctlRestart _ _ _ _ => true
  | .wqctlDestroy _ _ _ _ => true
  | .wqctlRead _ _ _ _ => true
  | .tbarm _ _ _ _ _ _ _ => true
  | .tbwait _ _ _ _ => true
  | .tbarrive _ _ _ _ => true
  | .nudgeDelivery _ => false
  | .vadd _ _ ty _ a b => ty.sfn && a.cbOk ty.expands && b.cbOk ty.expands
  | .vsub _ _ ty _ a b => ty.sfn && a.cbOk ty.expands && b.cbOk ty.expands
  | .vmul _ _ ty _ a b => ty.sfn && a.cbOk ty.expands && b.cbOk ty.expands
  | .vmulh _ _ ty _ a b => ty.sfn && a.cbOk ty.expands && b.cbOk ty.expands
  | .vmad _ _ ty _ a b c => ty.sfn && a.cbOk ty.expands && b.cbOk ty.expands && c.cbOk ty.expands
  | .vadds _ _ ty _ a b => ty.sfn && a.cbOk ty.expands && b.cbOk ty.expands
  | .vsubs _ _ ty _ a b => ty.sfn && a.cbOk ty.expands && b.cbOk ty.expands
  | .vmin _ _ ty _ a b => ty.sfn && a.cbOk ty.expands && b.cbOk ty.expands
  | .vmax _ _ ty _ a b => ty.sfn && a.cbOk ty.expands && b.cbOk ty.expands
  | .vand _ _ ty _ a b => ty.sfn && a.cbOk ty.expands && b.cbOk ty.expands
  | .vor _ _ ty _ a b => ty.sfn && a.cbOk ty.expands && b.cbOk ty.expands
  | .vxor _ _ ty _ a b => ty.sfn && a.cbOk ty.expands && b.cbOk ty.expands
  | .vshl _ _ ty _ a b => ty.sfn && a.cbOk ty.expands && b.cbOk ty.expands
  | .vshr _ _ ty _ a b => ty.sfn && a.cbOk ty.expands && b.cbOk ty.expands
  | .vabs _ _ ty _ a => ty.sfn && a.cbOk ty.expands
  | .vmov _ _ ty _ a => ty.sfn && a.cbOk ty.expands
  | .vfadd _ _ ty _ a b => ty.vfl && a.cbOk ty.expands && b.cbOk ty.expands
  | .vfsub _ _ ty _ a b => ty.vfl && a.cbOk ty.expands && b.cbOk ty.expands
  | .vfmul _ _ ty _ a b => ty.vfl && a.cbOk ty.expands && b.cbOk ty.expands
  | .vfma _ _ ty _ a b c => ty.vfl && a.cbOk ty.expands && b.cbOk ty.expands && c.cbOk ty.expands
  | .vfdiv _ _ ty _ a b => ty.vfl && a.cbOk ty.expands && b.cbOk ty.expands
  | .vfsqrt _ _ ty _ a => ty.vfl && a.cbOk ty.expands
  | .vfmin _ _ ty _ a b => ty.vfl && a.cbOk ty.expands && b.cbOk ty.expands
  | .vfmax _ _ ty _ a b => ty.vfl && a.cbOk ty.expands && b.cbOk ty.expands
  | .vfabs _ _ ty _ a => ty.vfl && a.cbOk ty.expands
  | .vfneg _ _ ty _ a => ty.vfl && a.cbOk ty.expands
  | .vfrcp _ _ ty _ a => ty.vfl && a.cbOk ty.expands
  | .vfexp2 _ _ ty _ a => ty.vfl && a.cbOk ty.expands
  | .vcvt _ _ dty sty _ part _ a => !dty.isSheaf && !sty.isSheaf && part.val < cvtParts dty sty && a.cbOk sty.expands
  | .vcbx _ _ ty _ kind part _ a => cbxOk ty kind part && a.plain
  | .vpack _ _ ty _ a b => ty.packs && a.cbOk (Ty.intOf ty.signed (2 * ty.width)).expands && b.cbOk (Ty.intOf ty.signed (2 * ty.width)).expands
  | .vunpack _ _ ty _ _ a => ty.sfn && a.cbOk (Ty.intOf ty.signed (ty.width / 2)).expands
  | .vldexp _ _ ty _ a b => ty.vfl && a.cbOk ty.expands && b.cbOk ty.expands
  | .vshuf _ _ ty _ a b c => ty.ge8 && a.cbOk ty.expands && b.cbOk ty.expands && c.cbOk ty.expands
  | .vbcast _ _ ty _ _ => ty.ge8
  | .vslide _ _ ty _ a b _ => ty.ge8 && a.cbOk ty.expands && b.cbOk ty.expands
  | .vzip _ _ ty _ _ a b => ty.ge8 && a.cbOk ty.expands && b.cbOk ty.expands
  | .vunzip _ _ ty _ _ a b => ty.ge8 && a.cbOk ty.expands && b.cbOk ty.expands
  | .vredsum _ _ ty _ a b => ty.red && a.cbOk ty.expands && b.cbOk ty.expands
  | .vredmax _ _ ty _ a b => ty.red && a.cbOk ty.expands && b.cbOk ty.expands
  | .vredmin _ _ ty _ a b => ty.red && a.cbOk ty.expands && b.cbOk ty.expands
  | .vscan _ _ ty _ a b => ty.red && a.cbOk ty.expands && b.cbOk ty.expands
  | .vtopk _ _ ty _ a _ => ty.red && a.cbOk ty.expands
  | .vcmp _ _ _ ty _ a b => ty.red && a.cbOk ty.expands && b.cbOk ty.expands
  | .vmskAnd _ _ _ _ => true
  | .vmskOr _ _ _ _ => true
  | .vmskXor _ _ _ _ => true
  | .vmskAndn _ _ _ _ => true
  | .vmskNot _ _ _ => true
  | .vsel _ m ty _ a b => m != 0 && !ty.isSheaf && a.cbOk ty.expands && b.cbOk ty.expands
  | .vmpop _ ty _ _ => ty.ge8
  | .viota _ _ ty _ _ => ty.sfn
  | .vld _ _ ty _ _ _ => !ty.isSheaf
  | .vst _ _ ty _ _ c => !ty.isSheaf && c.cbOk false
  | .vlds _ _ ty _ _ _ => ty.ge8
  | .vsts _ _ ty _ _ c => ty.ge8 && c.cbOk false
  | .vgath _ _ ty _ _ _ b => ty.ge8 && b.cbOk false
  | .vscat _ _ ty _ _ b c => ty.ge8 && b.cbOk false && c.cbOk false
  | .vldsh _ _ ty _ j0 _ _ _ => ty.vfl && j0.val % (ty.lanes / 32) == 0
  | .vstsh _ _ ty _ aux w8 j0 _ half _ c => ty.vfl && j0.val % (ty.lanes / 32) == 0 && (!w8 || (aux == 0 && !half)) && c.cbOk false
  | .fld _ _ _ _ => true
  | .fst _ _ _ _ => true
  | .fset _ _ _ _ => true
  | .fpatch _ fd _ _ => fd.patchable
  | .fpatchMem _ fd _ _ _ => fd.patchable
  | .fgo _ _ => true
  | .fgoUnf _ _ _ => true
  | .fgoDec _ _ _ => true
  | .fgoCommandStart _ _ => false
  | .fgoComplete _ _ => false
  | .winset _ _ _ _ _ => true
  | .winq _ _ _ _ => true
  | .cpy _ _ _ _ => true
  | .cpyUnf _ _ _ _ _ => true
  | .cpyDec _ _ _ _ _ => true
  | .cpyRed _ _ _ _ => true
  | .cpyOred _ _ _ _ _ => true
  | .cpyq _ _ _ => true
  | .timedCopyRelease _ => false
  | .shuttleCommandStart _ => false
  | .orderedReduceApply _ _ => false
  | .copyComplete _ _ => false
  | .storeWritePerformed _ _ _ => false
  | .ldlLockGrant _ _ => false
  | .weave _ sp reed pair _ _ _ raw => weaveOk sp reed pair raw
  | .scacc _ _ _ => true
  | .lmodeWrap _ => true
  | .lmodeSat _ => true
  | .lsync _ => true
  | .accclr _ _ _ => true
  | .accld _ _ _ _ => true
  | .accst _ _ _ _ => true
  | .accaddRow _ _ _ _ _ => true
  | .accaddCol _ _ _ _ _ => true
  | .drain _ ty pol _ _ _ _ => ty.drains && (!ty.isSheaf || pol == .sat)
  | .mdcopy _ _ _ _ => true
  | .cbld _ _ _ _ => true
  | .cbq _ _ _ => true
  | .reedld _ _ _ _ => true
  | .reedselOn _ _ => true
  | .reedselOff _ => true
  | .loomCommandStart _ => false
  | .loomStep _ => false
  | .loomCommandComplete _ => false
  | .granaryReadResume _ _ => false
  | .launchQueueRecord _ _ => false
  | .instancePlace _ _ _ _ => false
  | .instanceStart _ _ => false
  | .instanceAging _ _ _ => false
  | .iterationEnd _ => false
  | .graphEndSample _ _ => false
  | .preemption _ _ _ _ => false
  | .preemptingRetire _ => false
  | .pcmdResume _ => false
  | .pcmdAbort _ => false
  | .pcmdRerun _ => false
  | .pcmdSave _ => false
  | .corePortWrite _ _ _ _ => false
  | .debugViewWrite _ _ _ _ => false
  | .parserPacket _ _ => false
  | .parserSliceExpiry _ => false
  | .watchdogTimeout _ => false
  | .ringProducerStallTimeout _ _ => false
  | .reservationTimeout _ _ _ => false
  | .cmdPush _ => false
  | .cmdPop _ => false
  | .cmdStat _ => false
  | .cmdCreate _ => false
  | .cmdRestart _ => false
  | .cmdDestroy _ => false
  | .cmdRead _ => false
  | .hstatRead _ => false
  | .commandPageWrite _ _ _ => false
  | .dispatchStop _ _ => false
  | .journalReplay _ => false
  | .reeveHeartbeatTimeout _ => false
  | .reeveReload _ => false
  | .supervisorReload _ => false
  | .draughtBudgetSet _ _ => false
  | .plotReassign _ _ => false
  | .mgmtSessionOpen _ => false
  | .imageUpdate _ _ _ => false
  | .powerReset _ _ => false
  | .telemetry _ => false
  | .console _ _ => false
  | .bringUp => false
  | .thermalThrottle _ _ _ => false
  | .thermalShutdown _ => false
  | .coolantLoss => false
  | .linkFlit _ _ _ => false
  | .linkDown _ => false
  | .moduleFence _ => false
  | .copyPoint _ _ _ => false
  | .linkUp _ _ => false
  | .exportTableWrite _ _ => false
  | .hostHartAccess _ _ => false
  | .debugViewRead _ _ _ => false
  | .corePortRead _ _ _ => false

/-- A well-formed instruction; an event has no encoding and is none. -/
def Instr.wf (i : Instr) : Bool := i.form && i.head.wf i.uses

end Sys2Proof
end

