-- ==== Sys2Proof/Decode.lean ====
section
/-! DEFINITION. The decoder of spec/03_encoding.md: base word and literal to `Instr`, total, rejecting
by the causes of R48, and after it the encoder from the same tables. -/

namespace Sys2Proof

/-- The fields of a base word (R37). -/
structure Fields where
  op : Byte
  fn : Byte
  wsem : Fin 32
  wamt : Fin 8
  psem : Fin 32
  pamt : Fin 8
  d : Byte
  a : Byte
  b : Byte
  c : Byte
  deriving DecidableEq, Repr

/-- R37: the fields of a word. -/
def Fields.of (w : BitVec 64) : Fields where
  op := w.extractLsb' 56 8
  fn := w.extractLsb' 48 8
  wsem := (w.extractLsb' 43 5).toFin
  wamt := (w.extractLsb' 40 3).toFin
  psem := (w.extractLsb' 35 5).toFin
  pamt := (w.extractLsb' 32 3).toFin
  d := w.extractLsb' 24 8
  a := w.extractLsb' 16 8
  b := w.extractLsb' 8 8
  c := w.extractLsb' 0 8

/-- R37: the word of the fields. -/
def Fields.word (f : Fields) : BitVec 64 :=
  f.op ++ f.fn ++ (BitVec.ofFin f.wsem : BitVec 5) ++ (BitVec.ofFin f.wamt : BitVec 3) ++
    (BitVec.ofFin f.psem : BitVec 5) ++ (BitVec.ofFin f.pamt : BitVec 3) ++ f.d ++ f.a ++ f.b ++ f.c

/-- Why a base word is no instruction (R47, R39, R38). -/
inductive DecErr where
  | illegal
  | form
  | opClass
  deriving DecidableEq, Repr

/-- R41: the type of a code. -/
def Ty.ofCode : Nat → Option Ty
  | 0x00 => some .i64 | 0x01 => some .i32 | 0x02 => some .i16 | 0x03 => some .i8 | 0x04 => some .i4
  | 0x08 => some .n64 | 0x09 => some .n32 | 0x0A => some .n16 | 0x0B => some .n8 | 0x0C => some .n4
  | 0x10 => some .f32 | 0x11 => some .f16 | 0x12 => some .bf16 | 0x13 => some .e4m3
  | 0x14 => some .e5m2 | 0x15 => some .e2m1 | 0x18 => some .sh8 | 0x19 => some .sh4
  | _ => none

/-- R41. -/
def Ty.code : Ty → Nat
  | .i64 => 0x00 | .i32 => 0x01 | .i16 => 0x02 | .i8 => 0x03 | .i4 => 0x04
  | .n64 => 0x08 | .n32 => 0x09 | .n16 => 0x0A | .n8 => 0x0B | .n4 => 0x0C
  | .f32 => 0x10 | .f16 => 0x11 | .bf16 => 0x12 | .e4m3 => 0x13 | .e5m2 => 0x14 | .e2m1 => 0x15
  | .sh8 => 0x18 | .sh4 => 0x19

/-- R42. -/
def Cond.ofCode : Nat → Option Cond
  | 0 => some .eq | 1 => some .ne | 2 => some .lt | 3 => some .ge | 4 => some .le | 5 => some .gt
  | _ => none

/-- R42. -/
def Cond.code : Cond → Nat
  | .eq => 0 | .ne => 1 | .lt => 2 | .ge => 3 | .le => 4 | .gt => 5

/-- R42. -/
def Scope.ofCode : Nat → Option Scope
  | 0 => some .stream | 1 => some .core | 2 => some .plot | 3 => some .die | 4 => some .mod
  | 5 => some .sys | _ => none

/-- R42. -/
def Scope.code : Scope → Nat
  | .stream => 0 | .core => 1 | .plot => 2 | .die => 3 | .mod => 4 | .sys => 5

/-- R43, `BR`. -/
def Hint.ofCode : Nat → Option Hint
  | 0 => some .none | 1 => some .taken | 2 => some .notTaken | _ => Option.none

/-- R43, `BR`. -/
def Hint.code : Hint → Nat
  | .none => 0 | .taken => 1 | .notTaken => 2

/-- R43, SIZE. -/
def Size.ofCode : Nat → Size
  | 0 => .b8 | 1 => .b16 | 2 => .b32 | _ => .b64

/-- R43, SIZE. -/
def Size.code : Size → Nat
  | .b8 => 0 | .b16 => 1 | .b32 => 2 | .b64 => 3

/-- Overflow policies as `cr.CVPOL` codes them (R33). -/
def Pol.ofCode : Nat → Pol
  | 0 => .sat | 1 => .inf | 2 => .nan | _ => .trap

/-- R33. -/
def Pol.code : Pol → Nat
  | .sat => 0 | .inf => 1 | .nan => 2 | .trap => 3

/-- EXPL and POL of `VCVT` and `VLDSH` (R192, R205), from the bits [7:5] of their byte. -/
def polOfCode : Nat → Option (Option Pol)
  | 0 => some none
  | 4 => some (some .sat) | 5 => some (some .inf) | 6 => some (some .nan) | 7 => some (some .trap)
  | _ => none

/-- R192, R205. -/
def polCode : Option Pol → Nat
  | none => 0
  | some p => 4 + p.code

/-- R46. -/
def Pair.ofCode : Nat → Option Pair
  | 0x00 => some .i8i8 | 0x01 => some .n8i8 | 0x02 => some .i8n8 | 0x03 => some .n8n8
  | 0x04 => some .i4i4 | 0x08 => some .e4e4 | 0x09 => some .e4e5 | 0x0A => some .e5e4
  | 0x0B => some .e5e5 | 0x0C => some .f16f16 | 0x0D => some .bfbf
  | 0x10 => some .s8s8 | 0x11 => some .s4s4 | 0x12 => some .s8s4 | 0x13 => some .s4s8
  | _ => none

/-- R46. -/
def Pair.code : Pair → Nat
  | .i8i8 => 0x00 | .n8i8 => 0x01 | .i8n8 => 0x02 | .n8n8 => 0x03 | .i4i4 => 0x04
  | .e4e4 => 0x08 | .e4e5 => 0x09 | .e5e4 => 0x0A | .e5e5 => 0x0B | .f16f16 => 0x0C
  | .bfbf => 0x0D | .s8s8 => 0x10 | .s4s4 => 0x11 | .s8s4 => 0x12 | .s4s8 => 0x13

/-- R214, FN[5:0]. -/
def FField.ofCode : Nat → Option FField
  | 0x00 => some (.bound 0) | 0x01 => some (.bound 1) | 0x02 => some (.bound 2)
  | 0x03 => some (.bound 3) | 0x04 => some (.bound 4) | 0x05 => some (.bound 5)
  | 8 => some (.base 0)
  | 9 => some (.stride 0 0)
  | 10 => some (.stride 0 1)
  | 11 => some (.stride 0 2)
  | 12 => some (.stride 0 3)
  | 13 => some (.stride 0 4)
  | 14 => some (.stride 0 5)
  | 15 => some (.target 0)
  | 16 => some (.base 1)
  | 17 => some (.stride 1 0)
  | 18 => some (.stride 1 1)
  | 19 => some (.stride 1 2)
  | 20 => some (.stride 1 3)
  | 21 => some (.stride 1 4)
  | 22 => some (.stride 1 5)
  | 23 => some (.target 1)
  | 24 => some (.base 2)
  | 25 => some (.stride 2 0)
  | 26 => some (.stride 2 1)
  | 27 => some (.stride 2 2)
  | 28 => some (.stride 2 3)
  | 29 => some (.stride 2 4)
  | 30 => some (.stride 2 5)
  | 31 => some (.target 2)
  | 0x20 => some (.attr 0) | 0x21 => some (.attr 1) | 0x22 => some (.attr 2) | 0x23 => some .oper
  | 0x24 => some (.bmax 0) | 0x25 => some (.bmax 1) | 0x26 => some (.bmax 2)
  | 0x27 => some (.bmax 3) | 0x28 => some (.bmax 4) | 0x29 => some (.bmax 5)
  | 0x2A => some .wmask | 0x2B => some .patchen
  | _ => none

/-- R214. -/
def FField.code : FField → Nat
  | .bound k => k
  | .base w => 8 + 8 * w
  | .stride w k => 9 + 8 * w + k
  | .target w => 15 + 8 * w
  | .attr w => 0x20 + w
  | .oper => 0x23
  | .bmax k => 0x24 + k
  | .wmask => 0x2A
  | .patchen => 0x2B

/-- R159. -/
def DropQ.ofCode : Nat → Option DropQ
  | 0 => some .L | 1 => some .M | 2 => some .V | 3 => some .S | 4 => some .shuttle | _ => none

/-- R159. -/
def DropQ.code : DropQ → Nat
  | .L => 0 | .M => 1 | .V => 2 | .S => 3 | .shuttle => 4

/-- A number below `n` made from the low part of a field. -/
def fin (n : Nat) (x : Nat) (h : 0 < n := by decide) : Fin n := ⟨x % n, Nat.mod_lt _ h⟩

/-- A scalar source field (R38, R118). -/
def Src.ofByte (f : Byte) : Option Src :=
  match f.toNat / 64 with
  | 0 => if f.toNat < 32 then some (.reg (fin 32 f.toNat)) else none
  | 1 => if f.toNat < 0x50 then some (.age (fin 16 f.toNat)) else none
  | 3 => if f = 0xC0 ∨ f = 0xC1 then some .lit
         else if 0xE0 ≤ f.toNat then some (.imm (f.extractLsb' 0 5)) else none
  | _ => none

/-- R38; `m` is the literal marker of the instruction. -/
def Src.byte (m : Byte) : Src → Byte
  | .reg n => .ofNat 8 n
  | .age n => .ofNat 8 (0x40 + n)
  | .imm v => (7 : BitVec 3) ++ v
  | .lit => m

/-- A destination field (R38). -/
def Dst.ofByte (f : Byte) : Option Dst :=
  if f.toNat < 32 then some (.reg (fin 32 f.toNat)) else if f = 0x40 then some .push else none

/-- R38. -/
def Dst.byte : Dst → Byte
  | .reg n => .ofNat 8 n
  | .push => 0x40

/-- A vector source field of type `ty` (R179, R183); `exp` says that the role admits class 10. -/
def VSrc.ofByte (exp : Bool) (f : Byte) : Option VSrc :=
  match f.toNat / 64 with
  | 0 => if f.toNat < 32 then some (.reg (fin 32 f.toNat)) else none
  | 1 => if f.toNat < 0x50 then some (.age (fin 16 f.toNat)) else none
  | 2 => if exp then some (.cb (fin 8 (f.toNat / 8)) (fin 8 f.toNat)) else none
  | _ => if f = 0xC0 ∨ f = 0xC1 then some .lit
         else if 0xE0 ≤ f.toNat then some (.imm (f.extractLsb' 0 5)) else none

/-- R38. -/
def VSrc.byte (m : Byte) : VSrc → Byte
  | .reg n => .ofNat 8 n
  | .age n => .ofNat 8 (0x40 + n)
  | .cb k n => .ofNat 8 (0x80 + 8 * k + n)
  | .imm v => (7 : BitVec 3) ++ v
  | .lit => m

/-- A mask source field (R179). -/
def MSrc.ofByte (f : Byte) : Option MSrc :=
  if f.toNat < 8 then some (.reg (fin 8 f.toNat))
  else if 0x40 ≤ f.toNat ∧ f.toNat < 0x50 then some (.age (fin 16 f.toNat)) else none

/-- R38. -/
def MSrc.byte : MSrc → Byte
  | .reg n => .ofNat 8 n
  | .age n => .ofNat 8 (0x40 + n)

/-- A mask destination field (R179). -/
def MDst.ofByte (f : Byte) : Option MDst :=
  if f.toNat < 8 then some (.reg (fin 8 f.toNat)) else if f = 0x40 then some .push else none

/-- R38. -/
def MDst.byte : MDst → Byte
  | .reg n => .ofNat 8 n
  | .push => 0x40

/-- The register of a timed copy's D (R221). -/
def timeOfByte (f : Byte) : Option (Fin 32) :=
  if f.toNat < 32 then some (fin 32 f.toNat) else none

/-- R221. -/
def timeByte : Option (Fin 32) → Byte
  | none => 0
  | some n => .ofNat 8 n

/-- What a base word without illegal parts has left to check: the fields that may be literal
markers, with the width R39 checks, and the instruction its operand fields make, if every operand's
class is admitted. -/
structure Row where
  lits : List (Byte × Nat)
  build : Head → Option Instr

namespace Fields
variable (f : Fields)

/-- FN[4:0] as a type of a set (R41). -/
def ty (ok : Ty → Bool) : Option Ty :=
  (Ty.ofCode (f.fn.toNat % 32)).bind fun t => if ok t then some t else none

/-- FN[7:5]. -/
def hi : Nat := f.fn.toNat / 32

/-- The MASK field FN[7:5] (R44). -/
def mask : Fin 8 := fin 8 f.hi

/-- Fields that are required to be 0x00. -/
def z (l : List Byte) : Option Unit := if l.all (· == 0) then some () else none

/-- A condition that makes the word illegal when it fails. -/
def need (p : Bool) : Option Unit := if p then some () else none

/-- `d, a, b` with SFN and FN[7:5] zero (R119). -/
def alu2 (k : Head → Ty → Dst → Src → Src → Instr) : Option Row := do
  let t ← f.ty Ty.sfn; need (f.hi == 0); z [f.c]
  some ⟨[(f.a, t.width), (f.b, t.width)], fun h => do
    some (k h t (← Dst.ofByte f.d) (← Src.ofByte f.a) (← Src.ofByte f.b))⟩

/-- `d, a` with SFN (R121). -/
def alu1 (k : Head → Ty → Dst → Src → Instr) : Option Row := do
  let t ← f.ty Ty.sfn; z [f.b, f.c]
  some ⟨[(f.a, t.width)], fun h => do some (k h t (← Dst.ofByte f.d) (← Src.ofByte f.a))⟩

/-- Scalar sources `a`, `b` and no other field. -/
def ab (k : Head → Src → Src → Instr) : Option Row := do
  z [f.fn, f.d, f.c]
  some ⟨[(f.a, 64), (f.b, 64)], fun h => do some (k h (← Src.ofByte f.a) (← Src.ofByte f.b))⟩

/-- Scalar sources `a`, `b`, `c` and no other field. -/
def abc (k : Head → Src → Src → Src → Instr) : Option Row := do
  z [f.fn, f.d]
  some ⟨[(f.a, 64), (f.b, 64), (f.c, 64)], fun h => do
    some (k h (← Src.ofByte f.a) (← Src.ofByte f.b) (← Src.ofByte f.c))⟩

/-- `d, a`. -/
def da (k : Head → Dst → Src → Instr) : Option Row := do
  z [f.b, f.c]
  some ⟨[(f.a, 64)], fun h => do some (k h (← Dst.ofByte f.d) (← Src.ofByte f.a))⟩

/-- `d, a, b`. -/
def dab (k : Head → Dst → Src → Src → Instr) : Option Row := do
  z [f.c]
  some ⟨[(f.a, 64), (f.b, 64)], fun h => do
    some (k h (← Dst.ofByte f.d) (← Src.ofByte f.a) (← Src.ofByte f.b))⟩

/-- `d, a, b, c`. -/
def dabc (k : Head → Dst → Src → Src → Src → Instr) : Option Row := do
  some ⟨[(f.a, 64), (f.b, 64), (f.c, 64)], fun h => do
    some (k h (← Dst.ofByte f.d) (← Src.ofByte f.a) (← Src.ofByte f.b) (← Src.ofByte f.c))⟩

/-- No operand at all. -/
def nul (k : Head → Instr) : Option Row := do
  z [f.fn, f.d, f.a, f.b, f.c]
  some ⟨[], fun h => some (k h)⟩

/-- An `AMO` but `CAS` (R132). -/
def amo (k : Head → Bool → Scope → Dst → Src → Src → Instr) : Option Row := do
  let sc ← Scope.ofCode (f.fn.toNat % 8); z [f.c]
  let w := f.fn.toNat / 8 % 2 == 1
  some ⟨[(f.a, 64), (f.b, if w then 64 else 32)], fun h => do
    some (k h w sc (← Dst.ofByte f.d) (← Src.ofByte f.a) (← Src.ofByte f.b))⟩

/-- The CRN in B and C (R135), assigned or not. -/
def crn : BitVec 9 := .ofNat 9 (f.b.toNat * 256 + f.c.toNat)

/-- A control register instruction with source A (R135). -/
def cs (k : Head → Dst → BitVec 9 → Src → Instr) : Option Row := do
  z [f.fn]; need (f.b.toNat < 2 && crnAssigned f.crn)
  some ⟨[(f.a, 64)], fun h => do some (k h (← Dst.ofByte f.d) f.crn (← Src.ofByte f.a))⟩

/-- A semaphore number in A (R152). -/
def sem : Option (Fin 32) := if f.a.toNat < 32 then some (fin 32 f.a.toNat) else none

/-- A furrow slot in a modifier byte (R207). -/
def slot (x : Byte) : Option (Fin 64) := if x.toNat < 64 then some (fin 64 x.toNat) else none

/-- A number below 8 in a modifier byte. -/
def small (x : Byte) : Option (Fin 8) := if x.toNat < 8 then some (fin 8 x.toNat) else none

/-- A vector instruction `d, a, b`. -/
def v2 (ok : Ty → Bool) (k : Head → Fin 8 → Ty → Dst → VSrc → VSrc → Instr) : Option Row := do
  let t ← f.ty ok; z [f.c]
  some ⟨[(f.a, t.width), (f.b, t.width)], fun h => do
    some (k h f.mask t (← Dst.ofByte f.d) (← VSrc.ofByte t.expands f.a)
      (← VSrc.ofByte t.expands f.b))⟩

/-- A vector instruction `d, a, b, c`. -/
def v3 (ok : Ty → Bool) (k : Head → Fin 8 → Ty → Dst → VSrc → VSrc → VSrc → Instr) :
    Option Row := do
  let t ← f.ty ok
  some ⟨[(f.a, t.width), (f.b, t.width), (f.c, t.width)], fun h => do
    some (k h f.mask t (← Dst.ofByte f.d) (← VSrc.ofByte t.expands f.a)
      (← VSrc.ofByte t.expands f.b) (← VSrc.ofByte t.expands f.c))⟩

/-- A vector instruction `d, a`. -/
def v1 (ok : Ty → Bool) (k : Head → Fin 8 → Ty → Dst → VSrc → Instr) : Option Row := do
  let t ← f.ty ok; z [f.b, f.c]
  some ⟨[(f.a, t.width)], fun h => do
    some (k h f.mask t (← Dst.ofByte f.d) (← VSrc.ofByte t.expands f.a))⟩

/-- A mask instruction `d, a, b` (R189). -/
def mm (k : Head → MDst → MSrc → MSrc → Instr) : Option Row := do
  z [f.fn]
  some ⟨[(f.a, 256), (f.b, 256)], fun h => do
    some (k h (← MDst.ofByte f.d) (← MSrc.ofByte f.a) (← MSrc.ofByte f.b))⟩

/-- `VZIP` and `VUNZIP` (R196). -/
def zip (k : Head → Fin 8 → Ty → Bool → Dst → VSrc → VSrc → Instr) : Option Row := do
  let t ← f.ty Ty.ge8; need (f.c.toNat < 2)
  some ⟨[(f.a, t.width), (f.b, t.width)], fun h => do
    some (k h f.mask t (f.c == 1) (← Dst.ofByte f.d) (← VSrc.ofByte t.expands f.a)
      (← VSrc.ofByte t.expands f.b))⟩

/-- A vector load `d, [a .. b]` (R202). -/
def vl (ok : Ty → Bool) (k : Head → Fin 8 → Ty → Dst → Src → Src → Instr) : Option Row := do
  let t ← f.ty ok; z [f.c]
  some ⟨[(f.a, 64), (f.b, 64)], fun h => do
    some (k h f.mask t (← Dst.ofByte f.d) (← Src.ofByte f.a) (← Src.ofByte f.b))⟩

/-- A vector store `[a .. b], c` (R202). -/
def vs (ok : Ty → Bool) (k : Head → Fin 8 → Ty → Src → Src → VSrc → Instr) : Option Row := do
  let t ← f.ty ok; z [f.d]
  some ⟨[(f.a, 64), (f.b, 64), (f.c, t.width)], fun h => do
    some (k h f.mask t (← Src.ofByte f.a) (← Src.ofByte f.b) (← VSrc.ofByte false f.c))⟩

/-- A copy `t, p` of the shuttle (R221); `p` only where the mode has one. -/
def cpy0 (k : Head → Option (Fin 32) → Fin 64 → Src → Instr) : Option Row := do
  let n ← slot f.a; z [f.c]
  if f.fn.toNat / 8 % 2 = 1 then
    some ⟨[(f.b, 64)], fun h => do some (k h (some (← timeOfByte f.d)) n (← Src.ofByte f.b))⟩
  else
    z [f.d]
    some ⟨[(f.b, 64)], fun h => do some (k h none n (← Src.ofByte f.b))⟩

/-- See `cpy0`. -/
def cpy1 (k : Head → Option (Fin 32) → Fin 64 → Src → Src → Instr) : Option Row := do
  let n ← slot f.a
  if f.fn.toNat / 8 % 2 = 1 then
    some ⟨[(f.b, 64), (f.c, 64)], fun h => do
      some (k h (some (← timeOfByte f.d)) n (← Src.ofByte f.b) (← Src.ofByte f.c))⟩
  else
    z [f.d]
    some ⟨[(f.b, 64), (f.c, 64)], fun h => do
      some (k h none n (← Src.ofByte f.b) (← Src.ofByte f.c))⟩

/-- Groups 0x0 to 0x3 (R43). -/
def rowScalar : Option Row :=
  match f.op.toNat with
  | 0x00 => f.nul .nop
  | 0x01 => f.alu2 .add
  | 0x02 => f.alu2 .sub
  | 0x03 => f.alu2 .mul
  | 0x04 => f.alu2 .mulh
  | 0x05 => f.alu2 .div
  | 0x06 => f.alu2 .rem
  | 0x07 => f.alu2 .and
  | 0x08 => f.alu2 .or
  | 0x09 => f.alu2 .xor
  | 0x0A => f.alu2 .andn
  | 0x0B => f.alu2 .shl
  | 0x0C => f.alu2 .shr
  | 0x0D => f.alu2 .sra
  | 0x0E => f.alu2 .rot
  | 0x0F =>
    match f.hi with
    | 0 => f.alu1 .mov | 1 => f.alu1 .clz | 2 => f.alu1 .popc | 3 => f.alu1 .ctz | 4 => f.alu1 .not
    | 5 => f.alu1 .neg | _ => none
  | 0x10 => f.alu2 .min
  | 0x11 => f.alu2 .max
  | 0x12 => do
    let t ← f.ty Ty.sfn; let c ← Cond.ofCode f.hi; z [f.c]
    some ⟨[(f.a, t.width), (f.b, t.width)], fun h => do
      some (.cmp h c t (← Dst.ofByte f.d) (← Src.ofByte f.a) (← Src.ofByte f.b))⟩
  | 0x13 => do
    let t ← f.ty Ty.sfn; need (f.hi == 0)
    some ⟨[(f.a, t.width), (f.b, t.width), (f.c, t.width)], fun h => do
      some (.sel h t (← Dst.ofByte f.d) (← Src.ofByte f.a) (← Src.ofByte f.b) (← Src.ofByte f.c))⟩
  | 0x14 => do
    let t ← f.ty (fun t => t == .i64 || t == .n64); need (f.hi == 0 && f.c.toNat < 64)
    some ⟨[(f.a, 64), (f.b, 64)], fun h => do
      some (.ext h t (← Dst.ofByte f.d) (← Src.ofByte f.a) (← Src.ofByte f.b) (f.c.setWidth 6))⟩
  | 0x15 => do
    let t ← f.ty (fun t => t == .i64 || t == .n64); need (f.hi == 0 && f.c.toNat < 64)
    some ⟨[(f.a, 64), (f.b, 64)], fun h => do
      let d ← Dst.ofByte f.d
      if d = .push then none
      some (.ins h t d (← Src.ofByte f.a) (← Src.ofByte f.b) (f.c.setWidth 6))⟩
  | 0x16 => do
    let t ← f.ty Ty.sfn; z [f.c]
    some ⟨[(f.a, t.width), (f.b, t.width)], fun h => do
      some (.addx h f.mask t (← Dst.ofByte f.d) (← Src.ofByte f.a) (← Src.ofByte f.b))⟩
  | 0x20 => do
    let c ← Cond.ofCode f.hi; let hn ← Hint.ofCode (f.fn.toNat / 8 % 4)
    need (f.fn.toNat % 4 == 0); z [f.d]
    some ⟨[(f.a, 64), (f.b, 64), (f.c, 64)], fun h => do
      some (.br h c hn (f.fn.toNat / 4 % 2 == 1) (← Src.ofByte f.a) (← Src.ofByte f.b)
        (← Src.ofByte f.c))⟩
  | 0x21 =>
    match f.fn.toNat with
    | 0 => do
      z [f.d, f.a, f.b]
      some ⟨[(f.c, 64)], fun h => do some (.jmp h (← Src.ofByte f.c))⟩
    | 1 => do
      z [f.d, f.b, f.c]
      some ⟨[(f.a, 64)], fun h => do some (.jmpAbs h (← Src.ofByte f.a))⟩
    | _ => none
  | 0x22 =>
    match f.fn.toNat with
    | 0 => do
      z [f.a, f.b]
      some ⟨[(f.c, 64)], fun h => do some (.call h (← Dst.ofByte f.d) (← Src.ofByte f.c))⟩
    | 1 => f.da .callAbs
    | _ => none
  | 0x23 => do
    z [f.fn, f.d, f.b, f.c]
    some ⟨[(f.a, 64)], fun h => do some (.ret h (← Src.ofByte f.a))⟩
  | 0x24 => do
    z [f.fn, f.b]
    some ⟨[(f.a, 64), (f.c, 64)], fun h => do
      some (.loop h (← Dst.ofByte f.d) (← Src.ofByte f.a) (← Src.ofByte f.c))⟩
  | 0x30 => do
    let sc ← Scope.ofCode f.hi
    let acq := f.fn.toNat / 16 % 2 == 1
    need (f.fn.toNat / 4 % 2 == 0 && (acq || sc == .stream)); z [f.c]
    some ⟨[(f.a, 64), (f.b, 64)], fun h => do
      some (.ld h sc acq (f.fn.toNat / 8 % 2 == 1) (Size.ofCode (f.fn.toNat % 4))
        (← Dst.ofByte f.d) (← Src.ofByte f.a) (← Src.ofByte f.b))⟩
  | 0x31 => do
    let sc ← Scope.ofCode f.hi
    let rel := f.fn.toNat / 16 % 2 == 1
    need (f.fn.toNat / 4 % 4 == 0 && (rel || sc == .stream)); z [f.d]
    let sz := Size.ofCode (f.fn.toNat % 4)
    some ⟨[(f.a, 64), (f.b, 64), (f.c, 8 * sz.bytes)], fun h => do
      some (.st h sc rel sz (← Src.ofByte f.a) (← Src.ofByte f.b) (← Src.ofByte f.c))⟩
  | 0x32 => do
    need (f.fn.toNat / 16 == 0 && f.fn.toNat / 4 % 2 == 0); z [f.c]
    some ⟨[(f.a, 64), (f.b, 64)], fun h => do
      some (.ldl h (f.fn.toNat / 8 % 2 == 1) (Size.ofCode (f.fn.toNat % 4)) (← Dst.ofByte f.d)
        (← Src.ofByte f.a) (← Src.ofByte f.b))⟩
  | 0x33 => do
    need (f.fn.toNat / 4 == 0); z [f.d]
    let sz := Size.ofCode (f.fn.toNat % 4)
    some ⟨[(f.a, 64), (f.b, 64), (f.c, 8 * sz.bytes)], fun h => do
      some (.stu h sz (← Src.ofByte f.a) (← Src.ofByte f.b) (← Src.ofByte f.c))⟩
  | 0x34 =>
    match f.fn.toNat / 16 with
    | 0 => f.amo .amoAdd | 1 => f.amo .amoAnd | 2 => f.amo .amoOr | 3 => f.amo .amoXor
    | 4 => f.amo .amoSmin | 5 => f.amo .amoSmax | 6 => f.amo .amoUmin | 7 => f.amo .amoUmax
    | 8 => f.amo .amoSwap
    | 9 => do
      let sc ← Scope.ofCode (f.fn.toNat % 8)
      let w := f.fn.toNat / 8 % 2 == 1
      let n := if w then 64 else 32
      some ⟨[(f.a, 64), (f.b, n), (f.c, n)], fun h => do
        some (.amoCas h w sc (← Dst.ofByte f.d) (← Src.ofByte f.a) (← Src.ofByte f.b)
          (← Src.ofByte f.c))⟩
    | _ => none
  | 0x35 => f.ab .pref
  | _ => none

/-- Groups 0x4 to 0x6 (R43). -/
def rowSystem : Option Row :=
  match f.op.toNat with
  | 0x40 => do
    z [f.fn, f.a]; need (f.b.toNat < 2 && crnAssigned f.crn)
    some ⟨[], fun h => do some (.csrd h (← Dst.ofByte f.d) f.crn)⟩
  | 0x41 => f.cs .cswr
  | 0x42 => f.cs .csset
  | 0x43 => f.cs .csclr
  | 0x44 => do z [f.fn, f.d, f.a, f.b]; some ⟨[], fun h => some (.svc h f.c)⟩
  | 0x45 => do z [f.fn, f.d, f.a, f.b]; some ⟨[], fun h => some (.brk h f.c)⟩
  | 0x46 => f.nul .retf
  | 0x47 => do z [f.fn]; f.dab .nudgearm
  | 0x48 => f.nul .nudgeret
  | 0x49 => f.nul .waiti
  | 0x4A => do
    z [f.fn, f.d, f.b, f.c]
    some ⟨[(f.a, 64)], fun h => do some (.pause h (← Src.ofByte f.a))⟩
  | 0x4B => do
    let sc ← Scope.ofCode f.fn.toNat; z [f.d, f.a, f.b, f.c]
    some ⟨[], fun h => some (.fence h sc)⟩
  | 0x4C => do
    z [f.fn, f.d, f.a, f.b]; need (f.c.toNat < 32)
    some ⟨[], fun h => some (.fenceX h (f.c.setWidth 5))⟩
  | 0x4D =>
    match f.fn.toNat with
    | 0 => f.nul .tlbinv
    | 1 => do
      z [f.d, f.c]
      some ⟨[(f.a, 64), (f.b, 64)], fun h => do
        some (.tlbinvA h (← Src.ofByte f.a) (← Src.ofByte f.b))⟩
    | _ => none
  | 0x4E => f.abc .grwr
  | 0x4F =>
    match f.fn.toNat with
    | 0 => f.da .grq
    | 1 => do
      z [f.d]
      some ⟨[(f.a, 64), (f.b, 64), (f.c, 64)], fun h => do
        some (.remapset h (← Src.ofByte f.a) (← Src.ofByte f.b) (← Src.ofByte f.c))⟩
    | _ => none
  | 0x50 => do
    let n ← f.sem; z [f.fn, f.d, f.c]
    some ⟨[(f.b, 64)], fun h => do some (.semwait h n (← Src.ofByte f.b))⟩
  | 0x51 => do
    let n ← f.sem; z [f.fn, f.d, f.c]
    some ⟨[(f.b, 64)], fun h => do some (.sempost h n (← Src.ofByte f.b))⟩
  | 0x52 => do
    let n ← f.sem; z [f.fn, f.c]
    some ⟨[(f.b, 64)], fun h => do some (.semset h (← Dst.ofByte f.d) n (← Src.ofByte f.b))⟩
  | 0x53 => do
    let n ← f.sem; z [f.fn, f.b, f.c]
    some ⟨[], fun h => do some (.semrd h (← Dst.ofByte f.d) n)⟩
  | 0x54 => f.nul .rdv
  | 0x55 => do z [f.fn]; f.da .spawn
  | 0x56 => do z [f.fn]; f.da .tagset
  | 0x57 => do
    let q ← DropQ.ofCode f.fn.toNat; z [f.b, f.c]
    some ⟨[(f.a, 64)], fun h => do some (.qdrop h q (← Dst.ofByte f.d) (← Src.ofByte f.a))⟩
  | 0x60 => do
    need (f.fn.toNat < 2); z [f.c]
    some ⟨[(f.a, 64), (f.b, 64)], fun h => do
      some (.wqpop h (f.fn == 1) (← Dst.ofByte f.d) (← Src.ofByte f.a) (← Src.ofByte f.b))⟩
  | 0x61 => do z [f.fn]; f.dab .wqpush
  | 0x62 => do z [f.fn]; f.da .wqrsv
  | 0x63 => do z [f.fn]; f.dabc .wqcmt
  | 0x64 => do z [f.fn]; f.da .wqstat
  | 0x65 => do
    z [f.fn]
    let k ← match f.c.toNat with
      | 0 => some Instr.wqctlCreate | 1 => some Instr.wqctlRestart
      | 2 => some Instr.wqctlDestroy | 3 => some Instr.wqctlRead | _ => none
    some ⟨[(f.a, 64), (f.b, 64)], fun h => do
      some (k h (← Dst.ofByte f.d) (← Src.ofByte f.a) (← Src.ofByte f.b))⟩
  | 0x66 => do
    need (f.fn.toNat < 4)
    f.dabc (fun h => .tbarm h (f.fn.toNat % 2 == 1) (f.fn.toNat / 2 == 1))
  | 0x67 => do z [f.fn]; f.dab .tbwait
  | 0x68 => f.abc .tbarrive
  | _ => none

/-- Groups 0x7 to 0xB (R44). -/
def rowVector : Option Row :=
  match f.op.toNat with
  | 0x70 => f.v2 Ty.sfn .vadd
  | 0x71 => f.v2 Ty.sfn .vsub
  | 0x72 => f.v2 Ty.sfn .vmul
  | 0x73 => f.v2 Ty.sfn .vmulh
  | 0x74 => f.v3 Ty.sfn .vmad
  | 0x75 => f.v2 Ty.sfn .vadds
  | 0x76 => f.v2 Ty.sfn .vsubs
  | 0x77 => f.v2 Ty.sfn .vmin
  | 0x78 => f.v2 Ty.sfn .vmax
  | 0x79 => f.v2 Ty.sfn .vand
  | 0x7A => f.v2 Ty.sfn .vor
  | 0x7B => f.v2 Ty.sfn .vxor
  | 0x7C => f.v2 Ty.sfn .vshl
  | 0x7D => f.v2 Ty.sfn .vshr
  | 0x7E => f.v1 Ty.sfn .vabs
  | 0x7F => f.v1 Ty.sfn .vmov
  | 0x80 => f.v2 Ty.vfl .vfadd
  | 0x81 => f.v2 Ty.vfl .vfsub
  | 0x82 => f.v2 Ty.vfl .vfmul
  | 0x83 => f.v3 Ty.vfl .vfma
  | 0x84 => f.v2 Ty.vfl .vfdiv
  | 0x85 => f.v1 Ty.vfl .vfsqrt
  | 0x86 => f.v2 Ty.vfl .vfmin
  | 0x87 => f.v2 Ty.vfl .vfmax
  | 0x88 => f.v1 Ty.vfl .vfabs
  | 0x89 => f.v1 Ty.vfl .vfneg
  | 0x8A => f.v1 Ty.vfl .vfrcp
  | 0x8B => f.v1 Ty.vfl .vfexp2
  | 0x90 => do
    let t ← f.ty (!·.isSheaf); let s ← Ty.ofCode (f.c.toNat % 32)
    let p ← polOfCode (f.c.toNat / 32)
    need (!s.isSheaf && f.b.toNat < 16 && f.b.toNat < cvtParts t s)
    some ⟨[(f.a, s.width)], fun h => do
      some (.vcvt h f.mask t s p (fin 16 f.b.toNat) (← Dst.ofByte f.d)
        (← VSrc.ofByte s.expands f.a))⟩
  | 0x91 => do
    let t ← f.ty (fun _ => true)
    let kind := fin 4 f.c.toNat; let part := fin 8 (f.c.toNat / 4)
    need (f.b.toNat < 8 && f.c.toNat < 32 && cbxOk t kind part)
    some ⟨[(f.a, t.width)], fun h => do
      some (.vcbx h f.mask t (fin 8 f.b.toNat) kind part (← Dst.ofByte f.d)
        (← (VSrc.ofByte false f.a).bind fun s => if s.plain then some s else none))⟩
  | 0x92 => do
    let t ← f.ty Ty.packs; z [f.c]
    let s := Ty.intOf t.signed (2 * t.width)
    some ⟨[(f.a, 2 * t.width), (f.b, 2 * t.width)], fun h => do
      some (.vpack h f.mask t (← Dst.ofByte f.d) (← VSrc.ofByte s.expands f.a)
        (← VSrc.ofByte s.expands f.b))⟩
  | 0x93 => do
    let t ← f.ty Ty.sfn; need (f.b.toNat < 2); z [f.c]
    let s := Ty.intOf t.signed (t.width / 2)
    some ⟨[(f.a, t.width / 2)], fun h => do
      some (.vunpack h f.mask t (f.b == 1) (← Dst.ofByte f.d) (← VSrc.ofByte s.expands f.a))⟩
  | 0x94 => f.v2 Ty.vfl .vldexp
  | 0xA0 => f.v3 Ty.ge8 .vshuf
  | 0xA1 => do
    let t ← f.ty Ty.ge8; z [f.b, f.c]
    some ⟨[(f.a, 64)], fun h => do some (.vbcast h f.mask t (← Dst.ofByte f.d) (← Src.ofByte f.a))⟩
  | 0xA2 => do
    let t ← f.ty Ty.ge8
    some ⟨[(f.a, t.width), (f.b, t.width), (f.c, 64)], fun h => do
      some (.vslide h f.mask t (← Dst.ofByte f.d) (← VSrc.ofByte t.expands f.a)
        (← VSrc.ofByte t.expands f.b) (← Src.ofByte f.c))⟩
  | 0xA3 => f.zip .vzip
  | 0xA4 => f.zip .vunzip
  | 0xA5 => f.v2 Ty.red .vredsum
  | 0xA6 => f.v2 Ty.red .vredmax
  | 0xA7 => f.v2 Ty.red .vredmin
  | 0xA8 => f.v2 Ty.red .vscan
  | 0xA9 => do
    let t ← f.ty Ty.red; z [f.c]
    some ⟨[(f.a, t.width), (f.b, 64)], fun h => do
      some (.vtopk h f.mask t (← MDst.ofByte f.d) (← VSrc.ofByte t.expands f.a)
        (← Src.ofByte f.b))⟩
  | 0xAA => do
    let t ← f.ty Ty.red; let c ← Cond.ofCode f.c.toNat
    some ⟨[(f.a, t.width), (f.b, t.width)], fun h => do
      some (.vcmp h f.mask c t (← MDst.ofByte f.d) (← VSrc.ofByte t.expands f.a)
        (← VSrc.ofByte t.expands f.b))⟩
  | 0xAB =>
    match f.c.toNat with
    | 0 => f.mm .vmskAnd | 1 => f.mm .vmskOr | 2 => f.mm .vmskXor | 3 => f.mm .vmskAndn
    | 4 => do
      z [f.fn, f.b]
      some ⟨[(f.a, 256)], fun h => do some (.vmskNot h (← MDst.ofByte f.d) (← MSrc.ofByte f.a))⟩
    | _ => none
  | 0xAC => do need (f.mask != 0); f.v2 (!·.isSheaf) .vsel
  | 0xAD => do
    let t ← f.ty Ty.ge8; need (f.hi == 0); z [f.b, f.c]
    some ⟨[(f.a, 256)], fun h => do some (.vmpop h t (← Dst.ofByte f.d) (← MSrc.ofByte f.a))⟩
  | 0xAE => do
    let t ← f.ty Ty.sfn; z [f.b, f.c]
    some ⟨[(f.a, 256)], fun h => do
      some (.viota h f.mask t (← Dst.ofByte f.d) (← MSrc.ofByte f.a))⟩
  | 0xB0 => f.vl (!·.isSheaf) .vld
  | 0xB1 => f.vs (!·.isSheaf) .vst
  | 0xB2 => f.vl Ty.ge8 .vlds
  | 0xB3 => f.vs Ty.ge8 .vsts
  | 0xB4 => do
    let t ← f.ty Ty.ge8; let s ← small f.c
    some ⟨[(f.a, 64), (f.b, t.width)], fun h => do
      some (.vgath h f.mask t s (← Dst.ofByte f.d) (← Src.ofByte f.a) (← VSrc.ofByte false f.b))⟩
  | 0xB5 => do
    let t ← f.ty Ty.ge8; let s ← small f.d
    some ⟨[(f.a, 64), (f.b, t.width), (f.c, t.width)], fun h => do
      some (.vscat h f.mask t s (← Src.ofByte f.a) (← VSrc.ofByte false f.b)
        (← VSrc.ofByte false f.c))⟩
  | 0xB6 => do
    let t ← f.ty Ty.vfl; let p ← polOfCode (f.b.toNat / 32)
    let j := fin 8 (f.b.toNat / 2)
    need (f.b.toNat / 16 % 2 == 0 && j % (t.lanes / 32) == 0); z [f.c]
    some ⟨[(f.a, 64)], fun h => do
      some (.vldsh h f.mask t (f.b.toNat % 2 == 1) j p (← Dst.ofByte f.d) (← Src.ofByte f.a))⟩
  | 0xB7 => do
    let t ← f.ty Ty.vfl
    let w8 := f.b.toNat % 2 == 1; let aux := fin 16 (f.d.toNat / 16)
    let j := fin 8 (f.b.toNat / 2); let half := f.b.toNat / 128 == 1
    need (j % (t.lanes / 32) == 0 && (!w8 || (aux == 0 && !half)))
    some ⟨[(f.a, 64), (f.c, t.width)], fun h => do
      some (.vstsh h f.mask t (fin 16 f.d.toNat) aux w8 j (fin 8 (f.b.toNat / 16)) half
        (← Src.ofByte f.a) (← VSrc.ofByte false f.c))⟩
  | _ => none

/-- Groups 0xC to 0xF (R45). -/
def rowEngine : Option Row :=
  match f.op.toNat with
  | 0xC0 => do
    let n ← slot f.d; z [f.fn, f.c]
    some ⟨[(f.a, 64), (f.b, 64)], fun h => do some (.fld h n (← Src.ofByte f.a) (← Src.ofByte f.b))⟩
  | 0xC1 => do
    let n ← slot f.c; z [f.fn, f.d]
    some ⟨[(f.a, 64), (f.b, 64)], fun h => do some (.fst h (← Src.ofByte f.a) (← Src.ofByte f.b) n)⟩
  | 0xC2 => do
    let n ← slot f.d; let fd ← FField.ofCode f.fn.toNat; z [f.b, f.c]
    some ⟨[(f.a, 64)], fun h => do some (.fset h fd n (← Src.ofByte f.a))⟩
  | 0xC3 => do
    let n ← slot f.d; let fd ← FField.ofCode (f.fn.toNat % 128); need fd.patchable
    if f.fn.toNat / 128 = 1 then
      z [f.c]
      some ⟨[(f.a, 64), (f.b, 64)], fun h => do
        some (.fpatchMem h fd n (← Src.ofByte f.a) (← Src.ofByte f.b))⟩
    else
      z [f.b, f.c]
      some ⟨[(f.a, 64)], fun h => do some (.fpatch h fd n (← Src.ofByte f.a))⟩
  | 0xC4 => do
    let n ← slot f.a; z [f.fn, f.d]
    match f.c.toNat with
    | 0 => do z [f.b]; some ⟨[], fun h => some (.fgo h n)⟩
    | 1 => some ⟨[(f.b, 64)], fun h => do some (.fgoUnf h n (← Src.ofByte f.b))⟩
    | 2 => some ⟨[(f.b, 64)], fun h => do some (.fgoDec h n (← Src.ofByte f.b))⟩
    | _ => none
  | 0xC5 => do
    let w ← small f.d; z [f.fn]
    some ⟨[(f.a, 64), (f.b, 64), (f.c, 64)], fun h => do
      some (.winset h w (← Src.ofByte f.a) (← Src.ofByte f.b) (← Src.ofByte f.c))⟩
  | 0xC6 => do
    let w ← small f.a; z [f.fn, f.c]; need (f.b.toNat < 2)
    some ⟨[], fun h => do some (.winq h (← Dst.ofByte f.d) w (f.b == 1))⟩
  | 0xD0 => do
    need (f.fn.toNat < 16)
    match f.fn.toNat % 8 with
    | 0 => f.cpy0 .cpy | 1 => f.cpy1 .cpyUnf | 2 => f.cpy1 .cpyDec | 3 => f.cpy0 .cpyRed
    | 4 => f.cpy1 .cpyOred | _ => none
  | 0xD1 => do z [f.fn]; f.da .cpyq
  | 0xE0 => do
    let p ← Pair.ofCode (f.fn.toNat % 32); let n ← slot f.a
    let sp := f.fn.toNat / 128 == 1; let rd := f.fn.toNat / 64 % 2 == 1
    let raw := f.c.toNat / 2 == 1
    need (f.fn.toNat / 32 % 2 == 0 && f.c.toNat < 4 && weaveOk sp rd p raw); z [f.d]
    some ⟨[(f.b, 64)], fun h => do
      some (.weave h sp rd p n (← Src.ofByte f.b) (f.c.toNat % 2 == 1) raw)⟩
  | 0xE1 => f.ab .scacc
  | 0xE2 => do
    z [f.d, f.a, f.b, f.c]
    match f.fn.toNat with
    | 0 => some ⟨[], fun h => some (.lmodeWrap h)⟩
    | 1 => some ⟨[], fun h => some (.lmodeSat h)⟩
    | _ => none
  | 0xE3 => f.nul .lsync
  | 0xF0 => f.ab .accclr
  | 0xF1 => f.abc .accld
  | 0xF2 => f.abc .accst
  | 0xF3 => do
    let k ← match f.fn.toNat with
      | 0 => some Instr.accaddRow | 1 => some Instr.accaddCol | _ => none
    need (f.d.toNat < 2)
    some ⟨[(f.a, 64), (f.b, 64), (f.c, 32)], fun h => do
      some (k h (f.d == 1) (← Src.ofByte f.a) (← Src.ofByte f.b) (← Src.ofByte f.c))⟩
  | 0xF4 => do
    let t ← f.ty Ty.drains
    need (f.fn.toNat / 128 == 0 && f.d.toNat < 2 && (!t.isSheaf || f.fn.toNat / 32 == 0))
    some ⟨[(f.a, 64), (f.b, 64), (f.c, 64)], fun h => do
      some (.drain h t (Pol.ofCode (f.fn.toNat / 32)) (f.d == 1) (← Src.ofByte f.a)
        (← Src.ofByte f.b) (← Src.ofByte f.c))⟩
  | 0xF5 => f.abc .mdcopy
  | 0xF6 => do
    let k ← small f.fn; z [f.d, f.c]
    some ⟨[(f.a, 64), (f.b, 64)], fun h => do some (.cbld h k (← Src.ofByte f.a) (← Src.ofByte f.b))⟩
  | 0xF7 => do
    let k ← small f.a; z [f.fn, f.b, f.c]
    some ⟨[], fun h => do some (.cbq h (← Dst.ofByte f.d) k)⟩
  | 0xF8 => do
    need (f.fn.toNat < 4); z [f.d, f.c]
    some ⟨[(f.a, 64), (f.b, 64)], fun h => do
      some (.reedld h (fin 4 f.fn.toNat) (← Src.ofByte f.a) (← Src.ofByte f.b))⟩
  | 0xF9 => do
    z [f.d, f.a, f.b, f.c]
    match f.fn.toNat with
    | 0 => some ⟨[], fun h => some (.reedselOff h)⟩
    | 4 => some ⟨[], fun h => some (.reedselOn h 0)⟩
    | 5 => some ⟨[], fun h => some (.reedselOn h 1)⟩
    | 6 => some ⟨[], fun h => some (.reedselOn h 2)⟩
    | 7 => some ⟨[], fun h => some (.reedselOn h 3)⟩
    | _ => none
  | _ => none

/-- The opcode map (R43 to R45); none where R47 makes the word illegal. -/
def row : Option Row :=
  if f.op.toNat < 0x40 then f.rowScalar
  else if f.op.toNat < 0x70 then f.rowSystem
  else if f.op.toNat < 0xC0 then f.rowVector
  else f.rowEngine

/-- R37: WSEM is zero when WAMT is, and PSEM when PAMT is. -/
def clauses : Bool := (f.wamt != 0 || f.wsem == 0) && (f.pamt != 0 || f.psem == 0)

end Fields

/-- A literal marker (R39). -/
def marker (x : Byte) : Bool := x == 0xC0 || x == 0xC1

/-- R39: two markers, or a 64-bit literal in an operand of 32 bits or less. -/
def badForm (l : List (Byte × Nat)) : Bool :=
  (l.filter fun p => marker p.1).length ≥ 2 || l.any fun p => p.1 == 0xC1 && p.2 ≤ 32

/-- The literal a word's markers call for, with its bits in `payload` (R39). -/
def litOf (l : List (Byte × Nat)) (payload : BitVec 64) : Lit :=
  if l.any (·.1 == 0xC1) then .l64 payload
  else if l.any (·.1 == 0xC0) then .l32 (payload.setWidth 32)
  else .none

/-- The decoder, total on any base word and any bits behind it; the causes in the order of R48. -/
def Fields.decode (f : Fields) (payload : BitVec 64) : Except DecErr Instr :=
  if f.clauses then
    match f.row with
    | none => .error .illegal
    | some r =>
      if badForm r.lits then .error .form
      else match r.build ⟨f.wsem, f.wamt, f.psem, f.pamt, litOf r.lits payload⟩ with
        | none => .error .opClass
        | some i => .ok i
  else .error .illegal

/-- Decoding of a base word and the 64 bits behind it. -/
def decode (w payload : BitVec 64) : Except DecErr Instr := (Fields.of w).decode payload

/-- The instruction whose bits are `w`, numbered as the opcode table numbers them: the base word is
bits [63:0] and the literal follows it (R37, R39). -/
def decodeTableWord (nbits w : Nat) : Option Instr :=
  if nbits = 0 then none
  else match decode (.ofNat 64 w) (.ofNat 64 (w / 2 ^ 64)) with
    | .ok i => some i
    | .error _ => none

/-- The literal marker an instruction's operands use (R39). -/
def Lit.marker : Lit → Byte
  | .l64 _ => 0xC1
  | _ => 0xC0

/-- The bits of a literal as it follows the base word. -/
def Lit.payload : Lit → BitVec 64
  | .none => 0
  | .l32 v => v.setWidth 64
  | .l64 v => v

/-- The fields of an instruction with opcode, FN, D, A, B and C. -/
def Head.fields (h : Head) (op fn : Nat) (d a b c : Byte) : Fields :=
  ⟨.ofNat 8 op, .ofNat 8 fn, h.wsem, h.wamt, h.psem, h.pamt, d, a, b, c⟩

/-- A scalar source's byte under the instruction's literal. -/
def Head.s (h : Head) (x : Src) : Byte := x.byte h.lit.marker

/-- A vector source's byte under the instruction's literal. -/
def Head.v (h : Head) (x : VSrc) : Byte := x.byte h.lit.marker

/-- A Boolean as a bit. -/
def bit (b : Bool) : Nat := if b then 1 else 0

/-- The encoding tables (R43 to R46) read the other way; none for an event, which has no words. -/
def Instr.fields : Instr → Option Fields
  | .nop h => some (h.fields 0x00 (0) 0 0 0 0)
  | .add h ty d a b => some (h.fields 0x01 (ty.code) d.byte (h.s a) (h.s b) 0)
  | .sub h ty d a b => some (h.fields 0x02 (ty.code) d.byte (h.s a) (h.s b) 0)
  | .mul h ty d a b => some (h.fields 0x03 (ty.code) d.byte (h.s a) (h.s b) 0)
  | .mulh h ty d a b => some (h.fields 0x04 (ty.code) d.byte (h.s a) (h.s b) 0)
  | .div h ty d a b => some (h.fields 0x05 (ty.code) d.byte (h.s a) (h.s b) 0)
  | .rem h ty d a b => some (h.fields 0x06 (ty.code) d.byte (h.s a) (h.s b) 0)
  | .and h ty d a b => some (h.fields 0x07 (ty.code) d.byte (h.s a) (h.s b) 0)
  | .or h ty d a b => some (h.fields 0x08 (ty.code) d.byte (h.s a) (h.s b) 0)
  | .xor h ty d a b => some (h.fields 0x09 (ty.code) d.byte (h.s a) (h.s b) 0)
  | .andn h ty d a b => some (h.fields 0x0A (ty.code) d.byte (h.s a) (h.s b) 0)
  | .shl h ty d a b => some (h.fields 0x0B (ty.code) d.byte (h.s a) (h.s b) 0)
  | .shr h ty d a b => some (h.fields 0x0C (ty.code) d.byte (h.s a) (h.s b) 0)
  | .sra h ty d a b => some (h.fields 0x0D (ty.code) d.byte (h.s a) (h.s b) 0)
  | .rot h ty d a b => some (h.fields 0x0E (ty.code) d.byte (h.s a) (h.s b) 0)
  | .mov h ty d a => some (h.fields 0x0F (0 * 32 + ty.code) d.byte (h.s a) 0 0)
  | .clz h ty d a => some (h.fields 0x0F (1 * 32 + ty.code) d.byte (h.s a) 0 0)
  | .popc h ty d a => some (h.fields 0x0F (2 * 32 + ty.code) d.byte (h.s a) 0 0)
  | .ctz h ty d a => some (h.fields 0x0F (3 * 32 + ty.code) d.byte (h.s a) 0 0)
  | .not h ty d a => some (h.fields 0x0F (4 * 32 + ty.code) d.byte (h.s a) 0 0)
  | .neg h ty d a => some (h.fields 0x0F (5 * 32 + ty.code) d.byte (h.s a) 0 0)
  | .min h ty d a b => some (h.fields 0x10 (ty.code) d.byte (h.s a) (h.s b) 0)
  | .max h ty d a b => some (h.fields 0x11 (ty.code) d.byte (h.s a) (h.s b) 0)
  | .cmp h c ty d a b => some (h.fields 0x12 (c.code * 32 + ty.code) d.byte (h.s a) (h.s b) 0)
  | .sel h ty d a b c => some (h.fields 0x13 (ty.code) d.byte (h.s a) (h.s b) (h.s c))
  | .ext h ty d a b l => some (h.fields 0x14 (ty.code) d.byte (h.s a) (h.s b) (l.setWidth 8))
  | .ins h ty d a b l => some (h.fields 0x15 (ty.code) d.byte (h.s a) (h.s b) (l.setWidth 8))
  | .addx h s ty d a b => some (h.fields 0x16 (s * 32 + ty.code) d.byte (h.s a) (h.s b) 0)
  | .br h c hn u a b t => some (h.fields 0x20 (c.code * 32 + hn.code * 8 + bit u * 4) 0 (h.s a) (h.s b) (h.s t))
  | .jmp h t => some (h.fields 0x21 (0) 0 0 0 (h.s t))
  | .jmpAbs h a => some (h.fields 0x21 (1) 0 (h.s a) 0 0)
  | .call h d t => some (h.fields 0x22 (0) d.byte 0 0 (h.s t))
  | .callAbs h d a => some (h.fields 0x22 (1) d.byte (h.s a) 0 0)
  | .ret h a => some (h.fields 0x23 (0) 0 (h.s a) 0 0)
  | .loop h d a t => some (h.fields 0x24 (0) d.byte (h.s a) 0 (h.s t))
  | .ld h sc q sx sz d a b => some (h.fields 0x30 (sc.code * 32 + bit q * 16 + bit sx * 8 + sz.code) d.byte (h.s a) (h.s b) 0)
  | .st h sc q sz a b c => some (h.fields 0x31 (sc.code * 32 + bit q * 16 + sz.code) 0 (h.s a) (h.s b) (h.s c))
  | .ldl h sx sz d a b => some (h.fields 0x32 (bit sx * 8 + sz.code) d.byte (h.s a) (h.s b) 0)
  | .stu h sz a b c => some (h.fields 0x33 (sz.code) 0 (h.s a) (h.s b) (h.s c))
  | .amoAdd h w sc d a b => some (h.fields 0x34 (0 * 16 + bit w * 8 + sc.code) d.byte (h.s a) (h.s b) 0)
  | .amoAnd h w sc d a b => some (h.fields 0x34 (1 * 16 + bit w * 8 + sc.code) d.byte (h.s a) (h.s b) 0)
  | .amoOr h w sc d a b => some (h.fields 0x34 (2 * 16 + bit w * 8 + sc.code) d.byte (h.s a) (h.s b) 0)
  | .amoXor h w sc d a b => some (h.fields 0x34 (3 * 16 + bit w * 8 + sc.code) d.byte (h.s a) (h.s b) 0)
  | .amoSmin h w sc d a b => some (h.fields 0x34 (4 * 16 + bit w * 8 + sc.code) d.byte (h.s a) (h.s b) 0)
  | .amoSmax h w sc d a b => some (h.fields 0x34 (5 * 16 + bit w * 8 + sc.code) d.byte (h.s a) (h.s b) 0)
  | .amoUmin h w sc d a b => some (h.fields 0x34 (6 * 16 + bit w * 8 + sc.code) d.byte (h.s a) (h.s b) 0)
  | .amoUmax h w sc d a b => some (h.fields 0x34 (7 * 16 + bit w * 8 + sc.code) d.byte (h.s a) (h.s b) 0)
  | .amoSwap h w sc d a b => some (h.fields 0x34 (8 * 16 + bit w * 8 + sc.code) d.byte (h.s a) (h.s b) 0)
  | .amoCas h w sc d a b c => some (h.fields 0x34 (9 * 16 + bit w * 8 + sc.code) d.byte (h.s a) (h.s b) (h.s c))
  | .pref h a b => some (h.fields 0x35 (0) 0 (h.s a) (h.s b) 0)
  | .csrd h d n => some (h.fields 0x40 0 d.byte 0 (.ofNat 8 (n.toNat / 256)) (.ofNat 8 n.toNat))
  | .cswr h d n a => some (h.fields 0x41 0 d.byte (h.s a) (.ofNat 8 (n.toNat / 256)) (.ofNat 8 n.toNat))
  | .csset h d n a => some (h.fields 0x42 0 d.byte (h.s a) (.ofNat 8 (n.toNat / 256)) (.ofNat 8 n.toNat))
  | .csclr h d n a => some (h.fields 0x43 0 d.byte (h.s a) (.ofNat 8 (n.toNat / 256)) (.ofNat 8 n.toNat))
  | .svc h k => some (h.fields 0x44 (0) 0 0 0 k)
  | .brk h k => some (h.fields 0x45 (0) 0 0 0 k)
  | .retf h => some (h.fields 0x46 (0) 0 0 0 0)
  | .nudgearm h d a b => some (h.fields 0x47 (0) d.byte (h.s a) (h.s b) 0)
  | .nudgeret h => some (h.fields 0x48 (0) 0 0 0 0)
  | .waiti h => some (h.fields 0x49 (0) 0 0 0 0)
  | .pause h a => some (h.fields 0x4A (0) 0 (h.s a) 0 0)
  | .fence h sc => some (h.fields 0x4B (sc.code) 0 0 0 0)
  | .fenceX h m => some (h.fields 0x4C (0) 0 0 0 (m.setWidth 8))
  | .tlbinv h => some (h.fields 0x4D (0) 0 0 0 0)
  | .tlbinvA h a b => some (h.fields 0x4D (1) 0 (h.s a) (h.s b) 0)
  | .grwr h a b c => some (h.fields 0x4E (0) 0 (h.s a) (h.s b) (h.s c))
  | .grq h d a => some (h.fields 0x4F (0) d.byte (h.s a) 0 0)
  | .remapset h a b c => some (h.fields 0x4F (1) 0 (h.s a) (h.s b) (h.s c))
  | .semwait h n b => some (h.fields 0x50 (0) 0 (.ofNat 8 n) (h.s b) 0)
  | .sempost h n b => some (h.fields 0x51 (0) 0 (.ofNat 8 n) (h.s b) 0)
  | .semset h d n b => some (h.fields 0x52 (0) d.byte (.ofNat 8 n) (h.s b) 0)
  | .semrd h d n => some (h.fields 0x53 (0) d.byte (.ofNat 8 n) 0 0)
  | .rdv h => some (h.fields 0x54 (0) 0 0 0 0)
  | .spawn h d a => some (h.fields 0x55 (0) d.byte (h.s a) 0 0)
  | .tagset h d a => some (h.fields 0x56 (0) d.byte (h.s a) 0 0)
  | .qdrop h q d a => some (h.fields 0x57 (q.code) d.byte (h.s a) 0 0)
  | .wqrsv h d a => some (h.fields 0x62 (0) d.byte (h.s a) 0 0)
  | .wqpush h d a b => some (h.fields 0x61 (0) d.byte (h.s a) (h.s b) 0)
  | .wqcmt h d a b c => some (h.fields 0x63 (0) d.byte (h.s a) (h.s b) (h.s c))
  | .wqpop h nb d a b => some (h.fields 0x60 (bit nb) d.byte (h.s a) (h.s b) 0)
  | .wqstat h d a => some (h.fields 0x64 (0) d.byte (h.s a) 0 0)
  | .wqctlCreate h d a b => some (h.fields 0x65 (0) d.byte (h.s a) (h.s b) 0)
  | .wqctlRestart h d a b => some (h.fields 0x65 (0) d.byte (h.s a) (h.s b) 1)
  | .wqctlDestroy h d a b => some (h.fields 0x65 (0) d.byte (h.s a) (h.s b) 2)
  | .wqctlRead h d a b => some (h.fields 0x65 (0) d.byte (h.s a) (h.s b) 3)
  | .tbarm h o nu d a b c => some (h.fields 0x66 (bit o + bit nu * 2) d.byte (h.s a) (h.s b) (h.s c))
  | .tbwait h d a b => some (h.fields 0x67 (0) d.byte (h.s a) (h.s b) 0)
  | .tbarrive h a b c => some (h.fields 0x68 (0) 0 (h.s a) (h.s b) (h.s c))
  | .vadd h m ty d a b => some (h.fields 0x70 (m * 32 + ty.code) d.byte (h.v a) (h.v b) 0)
  | .vsub h m ty d a b => some (h.fields 0x71 (m * 32 + ty.code) d.byte (h.v a) (h.v b) 0)
  | .vmul h m ty d a b => some (h.fields 0x72 (m * 32 + ty.code) d.byte (h.v a) (h.v b) 0)
  | .vmulh h m ty d a b => some (h.fields 0x73 (m * 32 + ty.code) d.byte (h.v a) (h.v b) 0)
  | .vmad h m ty d a b c => some (h.fields 0x74 (m * 32 + ty.code) d.byte (h.v a) (h.v b) (h.v c))
  | .vadds h m ty d a b => some (h.fields 0x75 (m * 32 + ty.code) d.byte (h.v a) (h.v b) 0)
  | .vsubs h m ty d a b => some (h.fields 0x76 (m * 32 + ty.code) d.byte (h.v a) (h.v b) 0)
  | .vmin h m ty d a b => some (h.fields 0x77 (m * 32 + ty.code) d.byte (h.v a) (h.v b) 0)
  | .vmax h m ty d a b => some (h.fields 0x78 (m * 32 + ty.code) d.byte (h.v a) (h.v b) 0)
  | .vand h m ty d a b => some (h.fields 0x79 (m * 32 + ty.code) d.byte (h.v a) (h.v b) 0)
  | .vor h m ty d a b => some (h.fields 0x7A (m * 32 + ty.code) d.byte (h.v a) (h.v b) 0)
  | .vxor h m ty d a b => some (h.fields 0x7B (m * 32 + ty.code) d.byte (h.v a) (h.v b) 0)
  | .vshl h m ty d a b => some (h.fields 0x7C (m * 32 + ty.code) d.byte (h.v a) (h.v b) 0)
  | .vshr h m ty d a b => some (h.fields 0x7D (m * 32 + ty.code) d.byte (h.v a) (h.v b) 0)
  | .vabs h m ty d a => some (h.fields 0x7E (m * 32 + ty.code) d.byte (h.v a) 0 0)
  | .vmov h m ty d a => some (h.fields 0x7F (m * 32 + ty.code) d.byte (h.v a) 0 0)
  | .vfadd h m ty d a b => some (h.fields 0x80 (m * 32 + ty.code) d.byte (h.v a) (h.v b) 0)
  | .vfsub h m ty d a b => some (h.fields 0x81 (m * 32 + ty.code) d.byte (h.v a) (h.v b) 0)
  | .vfmul h m ty d a b => some (h.fields 0x82 (m * 32 + ty.code) d.byte (h.v a) (h.v b) 0)
  | .vfma h m ty d a b c => some (h.fields 0x83 (m * 32 + ty.code) d.byte (h.v a) (h.v b) (h.v c))
  | .vfdiv h m ty d a b => some (h.fields 0x84 (m * 32 + ty.code) d.byte (h.v a) (h.v b) 0)
  | .vfsqrt h m ty d a => some (h.fields 0x85 (m * 32 + ty.code) d.byte (h.v a) 0 0)
  | .vfmin h m ty d a b => some (h.fields 0x86 (m * 32 + ty.code) d.byte (h.v a) (h.v b) 0)
  | .vfmax h m ty d a b => some (h.fields 0x87 (m * 32 + ty.code) d.byte (h.v a) (h.v b) 0)
  | .vfabs h m ty d a => some (h.fields 0x88 (m * 32 + ty.code) d.byte (h.v a) 0 0)
  | .vfneg h m ty d a => some (h.fields 0x89 (m * 32 + ty.code) d.byte (h.v a) 0 0)
  | .vfrcp h m ty d a => some (h.fields 0x8A (m * 32 + ty.code) d.byte (h.v a) 0 0)
  | .vfexp2 h m ty d a => some (h.fields 0x8B (m * 32 + ty.code) d.byte (h.v a) 0 0)
  | .vcvt h m dty sty p part d a => some (h.fields 0x90 (m * 32 + dty.code) d.byte (h.v a) (.ofNat 8 part) (.ofNat 8 (polCode p * 32 + sty.code)))
  | .vcbx h m ty bk k part d a => some (h.fields 0x91 (m * 32 + ty.code) d.byte (h.v a) (.ofNat 8 bk) (.ofNat 8 (part * 4 + k)))
  | .vpack h m ty d a b => some (h.fields 0x92 (m * 32 + ty.code) d.byte (h.v a) (h.v b) 0)
  | .vunpack h m ty hi d a => some (h.fields 0x93 (m * 32 + ty.code) d.byte (h.v a) (.ofNat 8 (bit hi)) 0)
  | .vldexp h m ty d a b => some (h.fields 0x94 (m * 32 + ty.code) d.byte (h.v a) (h.v b) 0)
  | .vshuf h m ty d a b c => some (h.fields 0xA0 (m * 32 + ty.code) d.byte (h.v a) (h.v b) (h.v c))
  | .vbcast h m ty d a => some (h.fields 0xA1 (m * 32 + ty.code) d.byte (h.s a) 0 0)
  | .vslide h m ty d a b c => some (h.fields 0xA2 (m * 32 + ty.code) d.byte (h.v a) (h.v b) (h.s c))
  | .vzip h m ty hi d a b => some (h.fields 0xA3 (m * 32 + ty.code) d.byte (h.v a) (h.v b) (.ofNat 8 (bit hi)))
  | .vunzip h m ty hi d a b => some (h.fields 0xA4 (m * 32 + ty.code) d.byte (h.v a) (h.v b) (.ofNat 8 (bit hi)))
  | .vredsum h m ty d a b => some (h.fields 0xA5 (m * 32 + ty.code) d.byte (h.v a) (h.v b) 0)
  | .vredmax h m ty d a b => some (h.fields 0xA6 (m * 32 + ty.code) d.byte (h.v a) (h.v b) 0)
  | .vredmin h m ty d a b => some (h.fields 0xA7 (m * 32 + ty.code) d.byte (h.v a) (h.v b) 0)
  | .vscan h m ty d a b => some (h.fields 0xA8 (m * 32 + ty.code) d.byte (h.v a) (h.v b) 0)
  | .vtopk h m ty d a b => some (h.fields 0xA9 (m * 32 + ty.code) d.byte (h.v a) (h.s b) 0)
  | .vcmp h m c ty d a b => some (h.fields 0xAA (m * 32 + ty.code) d.byte (h.v a) (h.v b) (.ofNat 8 c.code))
  | .vmskAnd h d a b => some (h.fields 0xAB (0) d.byte a.byte b.byte 0)
  | .vmskOr h d a b => some (h.fields 0xAB (0) d.byte a.byte b.byte 1)
  | .vmskXor h d a b => some (h.fields 0xAB (0) d.byte a.byte b.byte 2)
  | .vmskAndn h d a b => some (h.fields 0xAB (0) d.byte a.byte b.byte 3)
  | .vmskNot h d a => some (h.fields 0xAB (0) d.byte a.byte 0 4)
  | .vsel h m ty d a b => some (h.fields 0xAC (m * 32 + ty.code) d.byte (h.v a) (h.v b) 0)
  | .vmpop h ty d a => some (h.fields 0xAD (ty.code) d.byte a.byte 0 0)
  | .viota h m ty d a => some (h.fields 0xAE (m * 32 + ty.code) d.byte a.byte 0 0)
  | .vld h m ty d a b => some (h.fields 0xB0 (m * 32 + ty.code) d.byte (h.s a) (h.s b) 0)
  | .vst h m ty a b c => some (h.fields 0xB1 (m * 32 + ty.code) 0 (h.s a) (h.s b) (h.v c))
  | .vlds h m ty d a b => some (h.fields 0xB2 (m * 32 + ty.code) d.byte (h.s a) (h.s b) 0)
  | .vsts h m ty a b c => some (h.fields 0xB3 (m * 32 + ty.code) 0 (h.s a) (h.s b) (h.v c))
  | .vgath h m ty s d a b => some (h.fields 0xB4 (m * 32 + ty.code) d.byte (h.s a) (h.v b) (.ofNat 8 s))
  | .vscat h m ty s a b c => some (h.fields 0xB5 (m * 32 + ty.code) (.ofNat 8 s) (h.s a) (h.v b) (h.v c))
  | .vldsh h m ty w j p d a => some (h.fields 0xB6 (m * 32 + ty.code) d.byte (h.s a) (.ofNat 8 (polCode p * 32 + j * 2 + bit w)) 0)
  | .vstsh h m ty sm ax w j bk hf a c => some (h.fields 0xB7 (m * 32 + ty.code) (.ofNat 8 (ax * 16 + sm)) (h.s a) (.ofNat 8 (bit hf * 128 + bk * 16 + j * 2 + bit w)) (h.v c))
  | .fld h f a b => some (h.fields 0xC0 (0) (.ofNat 8 f) (h.s a) (h.s b) 0)
  | .fst h a b f => some (h.fields 0xC1 (0) 0 (h.s a) (h.s b) (.ofNat 8 f))
  | .fset h fd f a => some (h.fields 0xC2 (fd.code) (.ofNat 8 f) (h.s a) 0 0)
  | .fpatch h fd f a => some (h.fields 0xC3 (fd.code) (.ofNat 8 f) (h.s a) 0 0)
  | .fpatchMem h fd f a b => some (h.fields 0xC3 (128 + fd.code) (.ofNat 8 f) (h.s a) (h.s b) 0)
  | .fgo h f => some (h.fields 0xC4 (0) 0 (.ofNat 8 f) 0 0)
  | .fgoUnf h f p => some (h.fields 0xC4 (0) 0 (.ofNat 8 f) (h.s p) 1)
  | .fgoDec h f p => some (h.fields 0xC4 (0) 0 (.ofNat 8 f) (h.s p) 2)
  | .winset h w a b c => some (h.fields 0xC5 (0) (.ofNat 8 w) (h.s a) (h.s b) (h.s c))
  | .winq h d w s => some (h.fields 0xC6 (0) d.byte (.ofNat 8 w) (.ofNat 8 (bit s)) 0)
  | .cpy h at_ f t => some (h.fields 0xD0 (bit at_.isSome * 8 + 0) (timeByte at_) (.ofNat 8 f) (h.s t) 0)
  | .cpyUnf h at_ f t p => some (h.fields 0xD0 (bit at_.isSome * 8 + 1) (timeByte at_) (.ofNat 8 f) (h.s t) (h.s p))
  | .cpyDec h at_ f t p => some (h.fields 0xD0 (bit at_.isSome * 8 + 2) (timeByte at_) (.ofNat 8 f) (h.s t) (h.s p))
  | .cpyRed h at_ f t => some (h.fields 0xD0 (bit at_.isSome * 8 + 3) (timeByte at_) (.ofNat 8 f) (h.s t) 0)
  | .cpyOred h at_ f t p => some (h.fields 0xD0 (bit at_.isSome * 8 + 4) (timeByte at_) (.ofNat 8 f) (h.s t) (h.s p))
  | .cpyq h d a => some (h.fields 0xD1 (0) d.byte (h.s a) 0 0)
  | .weave h sp rd pr f b ac rw => some (h.fields 0xE0 (bit sp * 128 + bit rd * 64 + pr.code) 0 (.ofNat 8 f) (h.s b) (.ofNat 8 (bit rw * 2 + bit ac)))
  | .scacc h a b => some (h.fields 0xE1 (0) 0 (h.s a) (h.s b) 0)
  | .lmodeWrap h => some (h.fields 0xE2 (0) 0 0 0 0)
  | .lmodeSat h => some (h.fields 0xE2 (1) 0 0 0 0)
  | .lsync h => some (h.fields 0xE3 (0) 0 0 0 0)
  | .accclr h a b => some (h.fields 0xF0 (0) 0 (h.s a) (h.s b) 0)
  | .accld h a b c => some (h.fields 0xF1 (0) 0 (h.s a) (h.s b) (h.s c))
  | .accst h a b c => some (h.fields 0xF2 (0) 0 (h.s a) (h.s b) (h.s c))
  | .accaddRow h fp a b c => some (h.fields 0xF3 (0) (.ofNat 8 (bit fp)) (h.s a) (h.s b) (h.s c))
  | .accaddCol h fp a b c => some (h.fields 0xF3 (1) (.ofNat 8 (bit fp)) (h.s a) (h.s b) (h.s c))
  | .drain h ty p cl a b c => some (h.fields 0xF4 (p.code * 32 + ty.code) (.ofNat 8 (bit cl)) (h.s a) (h.s b) (h.s c))
  | .mdcopy h a b c => some (h.fields 0xF5 (0) 0 (h.s a) (h.s b) (h.s c))
  | .cbld h bk a b => some (h.fields 0xF6 (bk) 0 (h.s a) (h.s b) 0)
  | .cbq h d bk => some (h.fields 0xF7 (0) d.byte (.ofNat 8 bk) 0 0)
  | .reedld h t a b => some (h.fields 0xF8 (t) 0 (h.s a) (h.s b) 0)
  | .reedselOn h t => some (h.fields 0xF9 (4 + t) 0 0 0 0)
  | .reedselOff h => some (h.fields 0xF9 (0) 0 0 0 0)
  | .pauseEnd _ _ => none
  | .fenceXJoin _ _ => none
  | .waitGrant _ _ => none
  | .nudgeDelivery _ => none
  | .fgoCommandStart _ _ => none
  | .fgoComplete _ _ => none
  | .timedCopyRelease _ => none
  | .shuttleCommandStart _ => none
  | .orderedReduceApply _ _ => none
  | .copyComplete _ _ => none
  | .storeWritePerformed _ _ _ => none
  | .ldlLockGrant _ _ => none
  | .loomCommandStart _ => none
  | .loomStep _ => none
  | .loomCommandComplete _ => none
  | .granaryReadResume _ _ => none
  | .launchQueueRecord _ _ => none
  | .instancePlace _ _ _ _ => none
  | .instanceStart _ _ => none
  | .instanceAging _ _ _ => none
  | .iterationEnd _ => none
  | .graphEndSample _ _ => none
  | .preemption _ _ _ _ => none
  | .preemptingRetire _ => none
  | .pcmdResume _ => none
  | .pcmdAbort _ => none
  | .pcmdRerun _ => none
  | .pcmdSave _ => none
  | .corePortWrite _ _ _ _ => none
  | .debugViewWrite _ _ _ _ => none
  | .parserPacket _ _ => none
  | .parserSliceExpiry _ => none
  | .watchdogTimeout _ => none
  | .ringProducerStallTimeout _ _ => none
  | .reservationTimeout _ _ _ => none
  | .cmdPush _ => none
  | .cmdPop _ => none
  | .cmdStat _ => none
  | .cmdCreate _ => none
  | .cmdRestart _ => none
  | .cmdDestroy _ => none
  | .cmdRead _ => none
  | .hstatRead _ => none
  | .commandPageWrite _ _ _ => none
  | .dispatchStop _ _ => none
  | .journalReplay _ => none
  | .reeveHeartbeatTimeout _ => none
  | .reeveReload _ => none
  | .supervisorReload _ => none
  | .draughtBudgetSet _ _ => none
  | .plotReassign _ _ => none
  | .mgmtSessionOpen _ => none
  | .imageUpdate _ _ _ => none
  | .powerReset _ _ => none
  | .telemetry _ => none
  | .console _ _ => none
  | .bringUp => none
  | .thermalThrottle _ _ _ => none
  | .thermalShutdown _ => none
  | .coolantLoss => none
  | .linkFlit _ _ _ => none
  | .linkDown _ => none
  | .moduleFence _ => none
  | .copyPoint _ _ _ => none
  | .linkUp _ _ => none
  | .exportTableWrite _ _ => none
  | .hostHartAccess _ _ => none
  | .debugViewRead _ _ _ => none
  | .corePortRead _ _ _ => none

/-- The base word of an instruction (R37); an event has none, and 0 stands for it. -/
def encode (i : Instr) : BitVec 64 := (i.fields.map Fields.word).getD 0

/-- The bytes of an instruction in memory (R37, R39): base word, literal, padding of zeros. -/
def encodeBytes (i : Instr) : List Byte :=
  let le (w : BitVec 64) : List Byte := (List.range 8).map fun k => w.extractLsb' (8 * k) 8
  match i.head.lit with
  | .none => le (encode i)
  | l => le (encode i) ++ le l.payload

end Sys2Proof
end

