-- ==== Sys2Proof/Machine/Num.lean ====
section
/-! DEFINITION. Numbers of spec/05_numbers.md: exact dyadic values, the float formats (R56 to R59),
rounding (R60), the flags an operation sets (R61, R62), and conversions with their overflow policies
(R63, R64). Patterns are natural numbers; a dyadic `(m, e)` is m × 2^e. -/

namespace Sys2Proof

/-- A set of `cr.OVF` flags (R33). -/
abbrev Flags := BitVec 10

/-- The flags by name (R33). -/
def Flags.sat : Flags := 1
@[inherit_doc Flags.sat] def Flags.nan : Flags := 2
@[inherit_doc Flags.sat] def Flags.clamp : Flags := 4
@[inherit_doc Flags.sat] def Flags.nv : Flags := 8
@[inherit_doc Flags.sat] def Flags.dz : Flags := 16
@[inherit_doc Flags.sat] def Flags.of : Flags := 32
@[inherit_doc Flags.sat] def Flags.uf : Flags := 64
@[inherit_doc Flags.sat] def Flags.nx : Flags := 128
@[inherit_doc Flags.sat] def Flags.shz : Flags := 256
@[inherit_doc Flags.sat] def Flags.cbz : Flags := 512

/-- A flag when a condition holds. -/
def Flags.on (f : Flags) (p : Bool) : Flags := if p then f else 0

/-- An exact dyadic value m × 2^e. -/
abbrev Dy := Int × Int

/-- m × 2^e with a common exponent: the two mantissas and it. -/
def Dy.align (a b : Dy) : Int × Int × Int :=
  let e := min a.2 b.2
  (a.1 * 2 ^ (a.2 - e).toNat, b.1 * 2 ^ (b.2 - e).toNat, e)

/-- Exact sum. -/
def Dy.add (a b : Dy) : Dy := let (x, y, e) := Dy.align a b; (x + y, e)
/-- Exact product. -/
def Dy.mul (a b : Dy) : Dy := (a.1 * b.1, a.2 + b.2)
/-- Negation. -/
def Dy.neg (a : Dy) : Dy := (-a.1, a.2)
/-- Magnitude. -/
def Dy.abs (a : Dy) : Dy := (a.1.natAbs, a.2)
/-- a × 2^k. -/
def Dy.scale (a : Dy) (k : Int) : Dy := (a.1, a.2 + k)
/-- Order of values. -/
def Dy.lt (a b : Dy) : Bool := let (x, y, _) := Dy.align a b; x < y
/-- Order of values. -/
def Dy.le (a b : Dy) : Bool := let (x, y, _) := Dy.align a b; x ≤ y
/-- Equality of values. -/
def Dy.eq (a b : Dy) : Bool := let (x, y, _) := Dy.align a b; x == y

/-- A float value: finite with its sign (of a zero too), infinity, or NaN (signalling or not). -/
inductive Fl where
  | fin (neg : Bool) (sig : Nat) (exp : Int)
  | inf (neg : Bool)
  | nan (signalling : Bool)
  deriving DecidableEq, Repr

/-- The value of a finite float; 0 for the others. -/
def Fl.dy : Fl → Dy
  | .fin n s e => (if n then -(s : Int) else s, e)
  | _ => (0, 0)

/-- A value times 2^k. -/
def Fl.scale (x : Fl) (k : Int) : Fl :=
  match x with
  | .fin n s e => .fin n s (e + k)
  | _ => x

/-- The sign of a float. -/
def Fl.isNeg : Fl → Bool
  | .fin n _ _ | .inf n => n
  | .nan _ => false

/-- NaN or not. -/
def Fl.isNaN : Fl → Bool
  | .nan _ => true
  | _ => false

/-- A zero of either sign. -/
def Fl.isZero : Fl → Bool
  | .fin _ 0 _ => true
  | _ => false

/-- A signalling NaN (R59). -/
def Fl.signals : Fl → Bool
  | .nan b => b
  | _ => false

/-- R59: reading a signalling NaN sets NV. -/
def Fl.nv (x : Fl) : Flags := Flags.nv.on x.signals

/-- Exponent bits, mantissa bits, bias (R56). -/
def Ty.fmt : Ty → Nat × Nat × Nat
  | .f32 => (8, 23, 127) | .f16 => (5, 10, 15) | .bf16 => (8, 7, 127)
  | .e5m2 => (5, 2, 15) | .e4m3 => (4, 3, 7) | _ => (2, 1, 1)

/-- The pattern of the largest finite value (R56). -/
def Ty.maxPat : Ty → Nat
  | .f32 => 0x7F7FFFFF | .f16 => 0x7BFF | .bf16 => 0x7F7F | .e5m2 => 0x7B | .e4m3 => 0x7E | _ => 7

/-- The canonical NaN (R59); formats without NaN have none. -/
def Ty.nanPat : Ty → Nat
  | .f32 => 0x7FC00000 | .f16 => 0x7E00 | .bf16 => 0x7FC0 | .e5m2 => 0x7E | .e4m3 => 0x7F | _ => 0

/-- Classes of conversion targets (R64). -/
inductive Cls where
  | I | N | Z
  deriving DecidableEq, Repr

/-- The class of a type (R64). -/
def Ty.cls : Ty → Cls
  | .f32 | .f16 | .bf16 | .e5m2 => .I
  | .e4m3 => .N
  | _ => .Z

/-- The infinity of a class I type (R56): the pattern after the largest finite one. -/
def Ty.infPat (t : Ty) : Nat := t.maxPat + 1

/-- A pattern with its sign bit. -/
def Ty.signed_ (t : Ty) (neg : Bool) (p : Nat) : Nat := if neg then p + 2 ^ (t.width - 1) else p

/-- R57: the finite value of a pattern of a format. -/
def finOf (e m bias bits : Nat) : Fl :=
  let s := bits / 2 ^ (e + m) % 2 == 1
  let ex := bits / 2 ^ m % 2 ^ e
  let mant := bits % 2 ^ m
  if ex = 0 then .fin s mant (1 - bias - m) else .fin s (2 ^ m + mant) ((ex : Int) - bias - m)

/-- R56, R57, R59: the value of a pattern of a float type. -/
def Ty.decode (t : Ty) (bits : Nat) : Fl :=
  let (e, m, b) := t.fmt
  let ex := bits / 2 ^ m % 2 ^ e
  let mant := bits % 2 ^ m
  match t.cls with
  | .I =>
    if ex = 2 ^ e - 1 then
      if mant = 0 then .inf (bits / 2 ^ (e + m) % 2 == 1)
      else .nan (t != .e5m2 && mant < 2 ^ (m - 1))
    else finOf e m b bits
  | .N => if ex = 15 ∧ mant = 7 then .nan false else finOf e m b bits
  | .Z => finOf e m b bits

/-- The value of an FP64 pattern (R40). -/
def decode64 (bits : Nat) : Fl :=
  if bits / 2 ^ 52 % 2048 = 2047 then
    if bits % 2 ^ 52 = 0 then .inf (bits / 2 ^ 63 % 2 == 1) else .nan (bits % 2 ^ 52 < 2 ^ 51)
  else finOf 11 52 1023 bits

/-- A magnitude rounded to a format with an unbounded exponent range (R63): its pattern without sign,
whether anything was lost, and whether the exact magnitude lies below the smallest normal (R61). -/
structure Rounded where
  pat     : Nat
  inexact : Bool
  tiny    : Bool

/-- Rounding of a discarded part: whether the magnitude goes up (R60). `half` compares the part with
one half: 0 below, 1 equal, 2 above. -/
def roundsUp (mode : BitVec 2) (neg odd : Bool) (half : Nat) (inexact : Bool) : Bool :=
  match mode.toNat with
  | 0 => half == 2 || (half == 1 && odd)
  | 1 => false
  | 2 => inexact && !neg
  | _ => inexact && neg

/-- sig × 2^exp divided by 2^q: the quotient, the comparison of the rest with one half, and whether
there is a rest. `sticky` says that a little more than nothing lies beyond. -/
def cut (sig : Nat) (exp q : Int) (sticky : Bool) : Nat × Nat × Bool :=
  if q ≤ exp then (sig * 2 ^ (exp - q).toNat, 0, sticky)
  else
    let d := 2 ^ (q - exp).toNat
    let r := sig % d
    (sig / d, if 2 * r < d then 0 else if 2 * r = d && !sticky then 1 else 2, r != 0 || sticky)

/-- R60, R63. -/
def Ty.round (t : Ty) (mode : BitVec 2) (neg : Bool) (sig : Nat) (exp : Int) (sticky : Bool) :
    Rounded :=
  let (_, m, b) := t.fmt
  let qmin : Int := 1 - b - m
  let top := exp + (Nat.log2 sig : Int)
  let q := max (top - m) qmin
  let (k, half, inexact) := cut sig exp q sticky
  let up := roundsUp mode neg (k % 2 == 1) half inexact
  ⟨k + bit up + (q - qmin).toNat * 2 ^ m, inexact, decide (top < 1 - (b : Int))⟩
where bit (b : Bool) : Nat := if b then 1 else 0

/-- The result of overflow in arithmetic (R180 `Rnd`): infinity or the largest finite value. -/
def Ty.ovfPat (t : Ty) (mode : BitVec 2) (neg : Bool) : Nat :=
  let inf := match mode.toNat with
    | 0 => true
    | 1 => false
    | 2 => !neg
    | _ => neg
  if inf then t.infPat else t.maxPat

/-- R180 `Rnd`: an exact (or sticky) value rounded to a type with IEEE 754 overflow; the flags of
R61. -/
def Ty.rnd (t : Ty) (mode : BitVec 2) (neg : Bool) (sig : Nat) (exp : Int) (sticky : Bool) :
    Nat × Flags :=
  if sig = 0 then (t.signed_ neg 0, 0)
  else
    let r := t.round mode neg sig exp sticky
    if t.maxPat < r.pat then (t.signed_ neg (t.ovfPat mode neg), Flags.of ||| Flags.nx)
    else (t.signed_ neg r.pat, (Flags.nx.on r.inexact) ||| (Flags.uf.on (r.tiny && r.inexact)))

/-- A float value rounded to a type, infinities and NaN kept. -/
def Ty.rndFl (t : Ty) (mode : BitVec 2) : Fl → Nat × Flags
  | .fin n s e => t.rnd mode n s e false
  | .inf n => (t.signed_ n t.infPat, 0)
  | .nan _ => (t.nanPat, 0)

/-- An integer as a float value. -/
def Fl.ofInt (x : Int) : Fl := .fin (x < 0) x.natAbs 0

/-- A dyadic as a float value; a zero takes the sign given (R60). -/
def Fl.ofDy (x : Dy) (zneg : Bool) : Fl :=
  if x.1 = 0 then .fin zneg 0 0 else .fin (x.1 < 0) x.1.natAbs x.2

/-- R60: the sign of an exact zero sum of operands with signs `a` and `b`. -/
def zeroSign (mode : BitVec 2) (a b : Bool) : Bool := if a = b then a else mode == 3

/-- Exact sum under IEEE 754 with the flags of its operands (R61, R187). -/
def Fl.add (mode : BitVec 2) (a b : Fl) : Fl × Flags :=
  match a, b with
  | .nan x, .nan y => (.nan false, Flags.nv.on (x || y))
  | .nan x, _ => (.nan false, Flags.nv.on x)
  | _, .nan y => (.nan false, Flags.nv.on y)
  | .inf x, .inf y => if x = y then (.inf x, 0) else (.nan false, Flags.nv)
  | .inf x, _ => (.inf x, 0)
  | _, .inf y => (.inf y, 0)
  | .fin x _ _, .fin y _ _ => (Fl.ofDy (Dy.add a.dy b.dy) (zeroSign mode x y), 0)

/-- Negation of any value. -/
def Fl.neg : Fl → Fl
  | .fin n s e => .fin (!n) s e
  | .inf n => .inf (!n)
  | .nan x => .nan x

/-- Exact product under IEEE 754 with the flags of its operands (R61, R187). -/
def Fl.mul (a b : Fl) : Fl × Flags :=
  match a, b with
  | .nan x, .nan y => (.nan false, Flags.nv.on (x || y))
  | .nan x, _ => (.nan false, Flags.nv.on x)
  | _, .nan y => (.nan false, Flags.nv.on y)
  | .inf x, _ => if b.isZero then (.nan false, Flags.nv) else (.inf (x != b.isNeg), 0)
  | _, .inf y => if a.isZero then (.nan false, Flags.nv) else (.inf (a.isNeg != y), 0)
  | .fin x s e, .fin y t f => (.fin (x != y) (s * t) (e + f), 0)

/-- a × b + c with no rounding between (R186, R187): 0 × ∞ sets NV whatever c is. -/
def Fl.fma (mode : BitVec 2) (a b c : Fl) : Fl × Flags :=
  let (p, f) := Fl.mul a b
  let (r, g) := Fl.add mode p c
  (r, f ||| g)

/-- Integer square root by Newton's steps from above; `fuel` steps are ample. -/
def sqrtGo (n : Nat) : Nat → Nat → Nat
  | 0, x => x
  | fuel + 1, x => let y := (x + n / x) / 2; if x ≤ y then x else sqrtGo n fuel y

/-- The integer part of the square root. -/
def isqrt (n : Nat) : Nat := if n = 0 then 0 else sqrtGo n 64 (2 ^ (Nat.log2 n / 2 + 1))

/-- A quotient with its first 80 bits or more, and whether there is a rest. -/
def quot (s t : Nat) (e : Int) : Nat × Int × Bool :=
  let k := 80 + Nat.log2 t
  let n := s * 2 ^ k
  (n / t, e - k, n % t != 0)

/-- R186, R187: a / b in a type. -/
def Ty.fdiv (t : Ty) (mode : BitVec 2) (a b : Fl) : Nat × Flags :=
  match a, b with
  | .nan x, .nan y => (t.nanPat, Flags.nv.on (x || y))
  | .nan x, _ => (t.nanPat, Flags.nv.on x)
  | _, .nan y => (t.nanPat, Flags.nv.on y)
  | .inf _, .inf _ => (t.nanPat, Flags.nv)
  | .inf x, .fin y _ _ => (t.signed_ (x != y) t.infPat, 0)
  | .fin x _ _, .inf y => (t.signed_ (x != y) 0, 0)
  | .fin x s e, .fin y u f =>
    if u = 0 then
      if s = 0 then (t.nanPat, Flags.nv) else (t.signed_ (x != y) t.infPat, Flags.dz)
    else
      let (q, g, st) := quot s u (e - f)
      t.rnd mode (x != y) q g st

/-- R186, R187: the square root in a type. -/
def Ty.fsqrt (t : Ty) (mode : BitVec 2) (a : Fl) : Nat × Flags :=
  match a with
  | .nan x => (t.nanPat, Flags.nv.on x)
  | .inf n => if n then (t.nanPat, Flags.nv) else (t.infPat, 0)
  | .fin n s e =>
    if s = 0 then (t.signed_ n 0, 0)
    else if n then (t.nanPat, Flags.nv)
    else
      let k : Nat := 80 + (e % 2).toNat
      let r := isqrt (s * 2 ^ k)
      t.rnd mode false r ((e - k) / 2) (r * r != s * 2 ^ k)

/-- Fraction bits of the running value of `exp2Go`. -/
def expBits : Nat := 512

/-- 2^f for a fraction f = frac / 2^bits, bit by bit from the top: `root` is 2^(2^-j), `acc` the
product so far, both with `expBits` fraction bits and rounded down. -/
def exp2Go : Nat → Nat → Nat → Nat → Nat
  | 0, _, _, acc => acc
  | bits + 1, frac, root, acc =>
    if frac = 0 then acc
    else
      let r := isqrt (root * 2 ^ expBits)
      if 2 ^ bits ≤ frac then exp2Go bits (frac - 2 ^ bits) r (acc * r / 2 ^ expBits)
      else exp2Go bits frac r acc

/-- R186, R187: 2^a in a type. A dyadic fraction gives an irrational power, so the result is never a
tie and its first 500 bits decide every rounding. -/
def Ty.fexp2 (t : Ty) (mode : BitVec 2) (a : Fl) : Nat × Flags :=
  match a with
  | .nan x => (t.nanPat, Flags.nv.on x)
  | .inf n => (if n then 0 else t.infPat, 0)
  | .fin _ s e =>
    let m := a.dy.1
    if s = 0 then t.rnd mode false 1 0 false
    else if 0 ≤ e then
      let x := m * 2 ^ (min e 64).toNat
      t.rnd mode false 1 (max (-1000) (min 1000 x)) false
    else
      let bits := (-e).toNat
      let i := m / 2 ^ bits
      let f := (m % 2 ^ bits).toNat
      if i < -1000 then t.rnd mode false 1 (-1000) true
      else if 1000 < i then t.rnd mode false 1 1000 true
      else if f = 0 then t.rnd mode false 1 i false
      else t.rnd mode false (exp2Go bits f (2 ^ (expBits + 1)) (2 ^ expBits)) (i - expBits) true

/-- Order of two values that are not NaN, −0 equal to +0: −1, 0 or 1. -/
def Fl.cmp (a b : Fl) : Int :=
  match a, b with
  | .inf x, .inf y => if x = y then 0 else if x then -1 else 1
  | .inf x, _ => if x then -1 else 1
  | _, .inf y => if y then 1 else -1
  | _, _ => if Dy.lt a.dy b.dy then -1 else if Dy.lt b.dy a.dy then 1 else 0

/-- The larger (or smaller) of two values, −0 below +0, NaN if either is one (R187, R199). -/
def Fl.pick (greater : Bool) (a b : Fl) : Fl × Flags :=
  let f := a.nv ||| b.nv
  if a.isNaN || b.isNaN then (.nan false, f)
  else
    let c := Fl.cmp a b
    let aLess := c < 0 || (c == 0 && a.isNeg && !b.isNeg)
    (if aLess == greater then b else a, f)

/-- The value of an integer type's pattern (R54). -/
def Ty.int (t : Ty) (bits : Nat) : Int :=
  let n := bits % 2 ^ t.width
  if t.signed && 2 ^ (t.width - 1) ≤ n then (n : Int) - 2 ^ t.width else n

/-- Smallest and largest value of an integer type (R54). -/
def Ty.minInt (t : Ty) : Int := if t.signed then -2 ^ (t.width - 1) else 0
@[inherit_doc Ty.minInt] def Ty.maxInt (t : Ty) : Int :=
  if t.signed then 2 ^ (t.width - 1) - 1 else 2 ^ t.width - 1

/-- The pattern of an integer in a type, modulo 2^n. -/
def Ty.wrap (t : Ty) (x : Int) : Nat := (x % 2 ^ t.width).toNat

/-- Saturation (R185 `Sat`), with SAT if it clamps. -/
def Ty.satInt (t : Ty) (x : Int) : Nat × Flags :=
  if x < t.minInt then (t.wrap t.minInt, Flags.sat)
  else if t.maxInt < x then (t.wrap t.maxInt, Flags.sat)
  else (t.wrap x, 0)

/-- A value rounded to an integer: the integer and whether it differs. -/
def toInt (mode : BitVec 2) (neg : Bool) (sig : Nat) (exp : Int) : Int × Bool :=
  let (k, half, inexact) := cut sig exp 0 false
  let k := if roundsUp mode neg (k % 2 == 1) half inexact then k + 1 else k
  (if neg then -(k : Int) else k, inexact)

/-- Float type `d` holds every value of float type `s` (R63). -/
def Ty.holds (d s : Ty) : Bool :=
  let (_, md, bd) := d.fmt
  let (_, ms, bs) := s.fmt
  ms ≤ md && Dy.le (finOf' s) (finOf' d) && (1 - (bd : Int) - md ≤ 1 - (bs : Int) - ms) &&
    (s.cls != .I || d.cls == .I) && (s.cls == .Z || d.cls != .Z)
where finOf' (t : Ty) : Dy := (t.decode t.maxPat).dy

/-- The limit of a target on the side of a sign (R64 "Max"). -/
def Ty.limit (t : Ty) (neg : Bool) : Nat :=
  if t.isInt then t.wrap (if neg then t.minInt else t.maxInt) else t.signed_ neg t.maxPat

/-- The first row of R64: a finite value that overflows the target. None is a trap. -/
def Ty.overflow (t : Ty) (p : Pol) (neg : Bool) : Option (Nat × Flags) :=
  match p, t.cls with
  | .trap, _ | .nan, .Z => none
  | .sat, .Z => some (t.limit neg, if t.isInt then Flags.sat else Flags.of ||| Flags.nx)
  | .sat, _ => some (t.limit neg, Flags.of ||| Flags.nx)
  | .inf, .I => some (t.signed_ neg t.infPat, Flags.of ||| Flags.nx)
  | .inf, .N => some (t.limit neg, Flags.clamp ||| Flags.nx)
  | .inf, .Z => some (t.limit neg, Flags.clamp)
  | .nan, _ => some (t.nanPat, Flags.of ||| Flags.nx)

/-- The row of R64 for an infinite source of a down-conversion. -/
def Ty.fromInf (t : Ty) (p : Pol) (neg : Bool) : Option (Nat × Flags) :=
  match p, t.cls with
  | .trap, _ | .nan, .Z => none
  | .sat, _ => some (t.limit neg, if t.isInt then Flags.sat else Flags.of)
  | .inf, .I => some (t.signed_ neg t.infPat, 0)
  | .inf, _ => some (t.limit neg, Flags.clamp)
  | .nan, _ => some (t.nanPat, Flags.nv)

/-- The rows of R64 for a NaN source; NV of a signalling one stands in every cell that does not
trap. -/
def Ty.fromNaN (t : Ty) (p : Pol) (s : Bool) : Option (Nat × Flags) :=
  match p, t.cls with
  | .sat, .Z | .inf, .Z => some (0, Flags.nan ||| Flags.nv.on s)
  | _, .Z => none
  | _, _ => some (t.nanPat, Flags.nv.on s)

/-- R63, R64: a value converted to a type under a policy; `exact` says that the conversion is no
down-conversion, so that infinities pass. None is a trap. -/
def Ty.convert (t : Ty) (mode : BitVec 2) (p : Pol) (exact : Bool) : Fl → Option (Nat × Flags)
  | .nan s => t.fromNaN p s
  | .inf n => if exact then some (t.signed_ n t.infPat, 0) else t.fromInf p n
  | .fin n s e =>
    if t.isInt then
      let (k, ix) := toInt mode n s e
      if k < t.minInt || t.maxInt < k then t.overflow p n else some (t.wrap k, Flags.nx.on ix)
    else if s = 0 then some (t.signed_ n 0, 0)
    else
      let r := t.round mode n s e false
      if t.maxPat < r.pat then t.overflow p n
      else some (t.signed_ n r.pat, (Flags.nx.on r.inexact) ||| (Flags.uf.on (r.tiny && r.inexact)))

/-- The value of a pattern of any non-sheaf type. -/
def Ty.value (t : Ty) (bits : Nat) : Fl :=
  if t.isInt then Fl.ofInt (t.int bits) else t.decode (bits % 2 ^ t.width)

/-- R192: conversion between two types. -/
def Ty.convertTy (d s : Ty) (mode : BitVec 2) (p : Pol) (bits : Nat) : Option (Nat × Flags) :=
  d.convert mode p (!s.isInt && !d.isInt && d.holds s) (s.value bits)

/-- R6 `Rne32`. -/
def rne32 (x : Fl) : Nat × Flags := Ty.f32.rndFl 0 x

/-- A dyadic rounded to FP32, a zero positive. -/
def rneDy (x : Dy) : Nat := (rne32 (Fl.ofDy x false)).1

/-- R40: a float literal's value in a type, to nearest even under SAT, a NaN canonical; no flags.
`exact` says that it is no down-conversion (R63). -/
def Ty.ofFl (t : Ty) (exact : Bool) (x : Fl) : Nat := ((t.convert 0 .sat exact x).map (·.1)).getD 0

/-- R40: a 5-bit immediate in a type. One that a float type does not hold exactly (E5M2 and E2M1 lack some
integers) is rounded to nearest even under SAT: DESIGN CHOICE (log 65). -/
def Ty.imm (t : Ty) (v : BitVec 5) : Nat :=
  if t.isInt then t.wrap v.toInt else t.ofFl false (Fl.ofInt v.toInt)

/-- R40: a literal in a type. -/
def Ty.lit (t : Ty) : Lit → Nat
  | .none => 0
  | .l32 v =>
    if t.isInt then (if t.signed then t.wrap v.toInt else v.toNat % 2 ^ t.width)
    else t.ofFl (t == .f32) (Ty.f32.decode v.toNat)
  | .l64 v => if t.isInt then v.toNat % 2 ^ t.width else t.ofFl false (decode64 v.toNat)

end Sys2Proof
end

