-- ==== Sys2Proof/Machine/State.lean ====
section
/-! DEFINITION. The state of a Drudunel module as plain data: everything spec/ gives it, agent by
agent (module, dies, plots, cores, instances, streams, host harts), and the model's own agenda of
which agent moves next (log 1). A field's docstring cites the rule that names it. -/

namespace Sys2Proof.Machine

/-- Numbered storage of which only the entries that differ from a default are listed, in rising
order of their numbers. -/
abbrev SMap (α : Type) := List (Nat × α)

/-- One value per engine stream. -/
structure Five (α : Type) where
  c : α
  l : α
  m : α
  v : α
  s : α
  deriving DecidableEq, Repr

/-- The same value for every stream. -/
def Five.all {α : Type} (x : α) : Five α := ⟨x, x, x, x, x⟩

/-- A byte of storage as the accesses of one core name it after translation. -/
inductive Loc where
  | hbm (pa : Nat)
  | spad (off : Nat)
  | acc (off : Nat)
  deriving DecidableEq, Repr

/-- The target a remote window is bound to (R217): a core's instance, known by the model's own
instance number, or an export. -/
inductive RTarget where
  | core (n : Nat) (uid : Nat)
  | export_ (module n : Nat)
  deriving DecidableEq, Repr

/-- A remote window of an instance (R217). -/
structure Window where
  tgt  : RTarget
  base : Nat
  len  : Nat
  deriving DecidableEq, Repr

/-- What a command's window was resolved to at issue (R216, R217): nothing beyond its snapshot, a
ring slot, or a remote target. -/
inductive WinRes where
  | plain
  | ring (lo slot : Nat)
  | remote (w : Window)
  deriving DecidableEq, Repr

/-- Copy modes (R221). -/
inductive CopyMode where
  | plain | unfold | decode | reduce | ordered
  deriving DecidableEq, Repr

/-- What a queued command does, with the operand values read at issue (R219, R222, R233). -/
inductive CmdOp where
  | weave (sp reed : Bool) (pair : Pair) (pitch : Word) (acc raw : Bool)
  | scacc (tile adj : Word)
  | lmode (sat : Bool)
  | lsync
  | accclr (a n : Word)
  | accld (tile addr : Word)
  | accst (addr tile : Word)
  | accadd (col fp : Bool) (tile addr : Word) (m : BitVec 32)
  | drain (ty : Ty) (pol : Pol) (clr : Bool) (addr tile par : Word)
  | mdcopy (off addr len : Word)
  | cbld (bank : Fin 8) (addr : Word)
  | cbq (d : Dst) (bank : Fin 8)
  | reedld (t : Fin 4) (addr : Word)
  | reedsel (t : Option (Fin 4))
  | fgo (mode : CopyMode) (p : Word)
  | cpy (mode : CopyMode) (t p : Word) (time : Option Word)
  deriving DecidableEq, Repr

/-- The remaining-progress record of a command (R232): points moved, the decode stream position,
whether an ordered reduce has reached its index, the destination sectors begun (R225); and what is under
way: the A rows of a stopped Loom step that are already fetched (R236), the source bytes that an ordered
reduce has read for its next points (R230), whether a fault of its own has stopped it (R232), and its
granary reads (R93): the MTIME until which its next unit is held by a refresh window, the MTIME at which
the units of its next point or step began, and the units read ahead with the MTIME at which they began. -/
structure Prog where
  pt      : Nat := 0
  dsrc    : Nat := 0
  applied : Bool := false
  sectors : List Loc := []
  stage   : List (List Nat) := []
  buf     : List (List Byte) := []
  fault   : Bool := false
  hold    : Option Nat := none
  began   : Option Nat := none
  ahead   : List (Nat × Nat) := []
  deriving DecidableEq, Repr

/-- The storage a run of bytes lies in. -/
inductive Area where
  | hbm | spad | acc | gran
  deriving DecidableEq, Repr

/-- A run of bytes where it lies. -/
structure Span where
  area : Area
  lo   : Nat
  n    : Nat
  deriving DecidableEq, Repr

/-- A command in an engine queue, the shuttle queue, the time-sorted buffer or an execution slot.
`joined` and `after` are the model's own: the joins of its issuer (log 13), and how much of the
issuer's engine queue stood before a copy (R111); `block` is the parameter block a started `DRAIN` has
read (R253; log 21), and `shared` the bytes of 4-bit rows whose other nibble it keeps (R255); `passed` what M has accessed behind a `DRAIN` or a `WEAVE` with REED in its queue, which
therefore it must not touch (R104; log 21). -/
structure Cmd where
  id      : Nat
  st      : Stream
  instr   : Instr
  head    : Head
  op      : CmdOp
  /-- operand values A, B, C and T as read (R299) -/
  vals    : List Word
  tag     : BitVec 6
  snap    : BitVec 1024
  wins    : List WinRes
  cbpol   : Bool
  shpol   : Bool
  started : Bool
  written : List Nat
  prog    : Prog
  joined  : List Nat
  after   : Nat
  block   : Nat := 0
  shared  : Option (List (Loc × Byte)) := none
  passed  : List Span := []
  deriving DecidableEq, Repr

/-- An entry of a stream's engine queue (R113) in program order: a command; the element writes of a
store instruction not yet performed, with whether it is a release (R105) and whether it releases a
lock (`STU`, R99); a `FENCE.X` marker; or the additions of a post that wait for what stands before
them (R111). -/
inductive EqItem where
  | cmd (c : Cmd)
  | store (rel unlock : Bool) (els : List (List (Loc × Byte)))
  | marker (owner : Stream)
  | post (adds : List (Fin 32 × Nat))
  deriving DecidableEq, Repr

/-- A scratchpad lock (R99): bank and row hash. -/
structure Lock where
  bank : BitVec 5
  row  : BitVec 6
  deriving DecidableEq, Repr

/-- The registers and queues of one engine stream (R8, R26, R33, R113). -/
structure StreamSt where
  /-- program counter (R8) -/
  pc     : Word := 0
  /-- `%g` registers by number (R26) -/
  g      : SMap Word := []
  /-- age queue, newest first, 16 entries (R28); outside V only bits [63:0] are used -/
  age    : List Vec := List.replicate 16 0
  /-- `cr.RND` (R33) -/
  rnd    : BitVec 2 := 0
  /-- `cr.CVPOL` (R33) -/
  cvpol  : BitVec 2 := 0
  /-- `cr.TAG` (R33) -/
  tag    : BitVec 6 := 0
  /-- `cr.CBPOL` (R33) -/
  cbpol  : Bool := false
  /-- `cr.SHPOL` (R33) -/
  shpol  : Bool := false
  /-- the stream is active in the job (R14) -/
  active : Bool := false
  /-- the stream has executed `RDV` in this iteration (R23) -/
  rdv    : Bool := false
  /-- the waits granted to the instruction at `pc`: semaphore and amount (R12, R154); the model's
  own (log 7) -/
  got    : List (Fin 32 × Nat) := []
  /-- a `PAUSE` in progress: its end in 2.0 GHz cycles of MTIME, and its post (R144) -/
  pause  : Option (Nat × Head) := none
  /-- a `FENCE.X` stalled at the join slot (R114) -/
  join   : Option Head := none
  /-- engine queue, oldest first (R113) -/
  eq     : List EqItem := []
  /-- entries that have left the engine queue; the model's own (log 8) -/
  eqDone : Nat := 0
  /-- a `TBWAIT` that has passed its check of LATE and stalls (R176) -/
  tbwait : Bool := false
  /-- the commands before a `FENCE.X`'s shuttle marker (R114) -/
  joinShq : List Nat := []
  /-- the lock the stream holds (R99) -/
  lock   : Option Lock := none
  /-- return-address stack, newest first (R128) -/
  ras    : List Word := []
  deriving DecidableEq, Repr

/-- A declared ring (R15, R18) with its two cursors. -/
structure Ring where
  base  : Nat
  slot  : Nat
  count : Nat
  full  : Fin 32
  empty : Fin 32
  prod  : Nat := 0
  cons  : Nat := 0
  deriving DecidableEq, Repr

/-- Who waits on a semaphore (R12): a stream's own instruction, the first unstarted command of its
engine queue, or the head shuttle command, which takes the place of the stream that issued it. -/
inductive Waiter where
  | instr (st : Stream)
  | queue (st : Stream)
  | shuttle
  deriving DecidableEq, Repr

/-- A codebook entry (R72). -/
structure CbEntry where
  tag : Byte := 0
  val : Word := 0
  deriving DecidableEq, Repr

/-- A raw block sum (R81): 80-bit two's complement with 40 fraction bits, or a special value. A NaN keeps
whether products +∞ and −∞ were among those summed, for NV is set once for the whole block sum (R62). -/
inductive RawSum where
  | fin (v : BitVec 80)
  | nan (pos neg : Bool)
  | inf (neg : Bool)
  deriving DecidableEq, Repr

/-- The raw tile of the Loom (R245). -/
structure RawTile where
  valid : Bool := false
  sums  : SMap RawSum := []
  sa    : SMap Byte := []
  sb    : SMap Byte := []
  deriving DecidableEq, Repr

/-- `cr.MPROG` (R33, R235). -/
structure MProg where
  valid : Bool := false
  kstep : BitVec 31 := 0
  row   : BitVec 6 := 0
  deriving DecidableEq, Repr

/-- A write to an aligned 8-byte word that the shuttle of the writer's core has not seen yet (R111, R114,
R223); the model's own (log 13): the instance, the word by its first byte, what it held before the write,
the writing stream (M for Loom and accumulator operations), the write's number in the instance, and its
place in the writing stream's engine queue. -/
structure Lag where
  core : Nat
  uid  : Nat
  loc  : Loc
  old  : List Byte
  wr   : Stream
  n    : Nat
  pos  : Nat
  deriving DecidableEq, Repr

/-- A location of a core that an uncorrectable error can be in (R302): a register, a register or age queue
of C's handler copy, a semaphore, a control register (of a stream, or of the core as C's), a byte of scratchpad
or of the accumulator store, a unit of a table, a queued command by its number, or a held store or post by its
place in its stream's engine queue. -/
inductive Spot where
  | g (st : Stream) (n : Nat)
  | hg (n : Nat)
  | hage
  | sem (n : Nat)
  | v (n : Nat)
  | m (n : Nat)
  | age (st : Stream)
  | cr (st : Stream) (n : Nat)
  | spad (o : Nat)
  | acc (o : Nat)
  | fur (n : Nat)
  | cb (b : Nat)
  | reed (t : Nat)
  | md
  | raw
  | cmd (id : Nat)
  | held (st : Stream) (k : Nat)
  deriving DecidableEq, Repr

/-- Instance states of R24 that an instance on a core can be in. -/
inductive Phase where
  | starting
  | running
  | draining
  | stopped (draining : Bool)
  | preempted (draining : Bool)
  deriving DecidableEq, Repr

/-- The launch an instance belongs to (R24, R265, R266). -/
structure Launch where
  die   : Nat := 0
  node  : Nat := 0
  q     : Nat := 0
  qdie  : Nat := 0
  asid  : BitVec 16 := 0
  root  : BitVec 40 := 0
  plots : Word := 0
  priv  : Bool := false
  level : Nat := 0
  deriving DecidableEq, Repr

/-- The data storage of a core as one instance names it (R8, R296). -/
structure Store where
  /-- scratchpad bytes by offset (R86) -/
  spad : SMap Byte := []
  /-- accumulator store bytes (R87) -/
  acc  : SMap Byte := []
  /-- furrow slots (R208) -/
  fur  : SMap (BitVec 1024) := []
  /-- codebook entries at bank × 256 + entry (R72) -/
  cb   : SMap CbEntry := []
  /-- reed table entries at table × 4096 + entry (R260) -/
  reed : SMap (BitVec 16) := []
  /-- sparsity metadata store bytes (R89) -/
  md   : SMap Byte := []
  /-- raw tile (R245) -/
  raw  : RawTile := {}
  deriving DecidableEq, Repr

/-- A unit of a victim's storage that a claim saves (R296, R300). -/
inductive Unit_ where
  | spad (u : Nat)
  | acc (t : Nat)
  | fur (n : Nat)
  | cb (b : Nat)
  | reed (t : Nat)
  | md
  | raw
  deriving DecidableEq, Repr

/-- The context of one instance on a core. -/
structure Inst where
  /-- instance number of the model, never used twice (log 1) -/
  uid      : Nat := 0
  phase    : Phase := .starting
  launch   : Launch := {}
  /-- job header, 64 bytes (R14) -/
  hdr      : BitVec 512 := 0
  /-- loop table, six 32-bit entries (R19) -/
  loops    : List (BitVec 32) := []
  /-- `cr.INST` (R20) -/
  inst     : BitVec 32 := 0
  /-- `cr.IDX0` to `cr.IDX5` (R20) -/
  idx      : List (BitVec 24) := List.replicate 6 0
  streams  : Five StreamSt := Five.all {}
  /-- `%v` registers by number, in V only (R26) -/
  v        : SMap Vec := []
  /-- `%m` registers by number, in V only (R26) -/
  mreg     : SMap MaskW := []
  /-- semaphore counts by number (R11) -/
  sem      : SMap (BitVec 16) := []
  /-- waits in the order they began to stall, each with its semaphore and amount (R12) -/
  waits    : List (Waiter × Fin 32 × Nat) := []
  rings    : List Ring := []
  /-- `cr.OVF` (R33, R34) -/
  ovf      : BitVec 10 := 0
  /-- `cr.CAUSE`: ARG, STREAM, CODE (R33) -/
  causeArg : Byte := 0
  causeSt  : BitVec 3 := 0
  cause    : Byte := 0
  /-- `cr.TRAPVEC`, `cr.TRAPPC`, `cr.NUDGEVEC`, `cr.NUDGEPC` as addresses (R33) -/
  trapvec  : Word := 0
  trappc   : Word := 0
  nudgevec : Word := 0
  nudgepc  : Word := 0
  /-- `cr.NUDGESRC`: QUEUE, TBAR (R33) -/
  srcQueue : Bool := false
  srcTbar  : Bool := false
  mprog    : MProg := {}
  /-- `cr.STATUS.INHND`, `cr.STATUS.NMASK` of C (R33) -/
  inhnd    : Bool := false
  nmask    : Bool := false
  /-- the command at the head of the Loom queue has entered the job's handler and waits for `RETF` (R24,
  R236) -/
  loomHeld : Bool := false
  /-- scratchpad offsets of the armed tbars (R173) -/
  tbars    : List Nat := []
  /-- nudge arm bits, watched queue (none before the first) and pending bits (R140) -/
  arm      : BitVec 2 := 0
  watch    : Option Nat := none
  tbp      : Bool := false
  qp       : Bool := false
  /-- a `WAITI` that waits in C, with its post (R143) -/
  waiti    : Option Head := none
  /-- C's handler copy of `%g24`–`%g31` and of its age queue (R29) -/
  hg       : SMap Word := []
  hage     : List Vec := List.replicate 16 0
  /-- remote windows by number; unlisted windows are invalid (R217) -/
  win      : SMap (Option Window) := []
  /-- Loom integer mode: saturating (R248) -/
  lsat     : Bool := false
  /-- reed selection (R261) -/
  reedsel  : Option (Fin 4) := none
  /-- codebook versions by bank (R259) -/
  cbver    : SMap (BitVec 32) := []
  store    : Store := {}
  /-- `LDL`s that retry, in the order they first tried (R99) -/
  ldlq     : List (Stream × Instr) := []
  /-- shuttle queue, oldest first (R222) -/
  shq      : List Cmd := []
  /-- time-sorted buffer, in entry order (R226) -/
  timed    : List Cmd := []
  /-- started copies (R222) -/
  copies   : List Cmd := []
  /-- number of the next command; the model's own -/
  nextCmd  : Nat := 0
  /-- the instance holds its die's granary (R91) -/
  gran     : Bool := false
  /-- PSTAT.EXTERNAL (R291, R293) -/
  external : Bool := false
  /-- units of this instance that stand in the context save area: those a pre-empting instance has
  claimed (R296), or all after a SAVE (R292) -/
  saved    : List Unit_ := []
  /-- its place in the order in which instances started (R278) -/
  begun    : Nat := 0
  /-- time towards the instance timeout, and time in the present stretch stopped (R318), in ns -/
  ranNs    : Nat := 0
  stopNs   : Nat := 0
  /-- the number of the last write kept in `State.lag`, and the joins made (R114); the model's own (log 13) -/
  lagN     : Nat := 0
  joins    : SMap Nat := []
  /-- locations with an uncorrectable error, each with what `pcr.FADDR` names it by (R302) -/
  bad      : List (Spot × Word) := []
  deriving DecidableEq, Repr

/-- A TLB entry (R97): a successful translation of one page. -/
structure TlbEnt where
  asid : BitVec 16
  va   : Nat
  size : Nat
  pa   : Nat
  x    : Bool
  w    : Bool
  usr  : Bool
  deriving DecidableEq, Repr

/-- An entry of a die's walk cache (R97): the table that the first `depth` levels of a walk reach for the
addresses of a range. -/
structure WalkEnt where
  asid  : BitVec 16
  va    : Nat
  size  : Nat
  depth : Nat
  table : Nat
  deriving DecidableEq, Repr

/-- The half latches of a core port or debug view (R290) and what its last read returned. -/
structure Port where
  low   : Option (Nat × BitVec 32) := none
  high  : Option (Nat × BitVec 32) := none
  data  : BitVec 32 := 0
  deriving DecidableEq, Repr

/-- A core (R8): its instance, its pre-empting instance (R278), and the registers that are the
core's own (R35, R290, R311). -/
structure Core where
  main     : Option Inst := none
  pre      : Option Inst := none
  fpc      : Five Word := Five.all 0
  fcause   : Byte := 0
  fstream  : BitVec 3 := 0
  faddr    : Word := 0
  ctxbase  : BitVec 52 := 0
  regEn    : Bool := true
  remapBase : BitVec 52 := 0
  remapCnt : Byte := 0
  rej      : Bool := false
  port     : Port := {}
  zread    : Bool := false
  dview    : Port := {}
  grant    : Bool := false
  tlb      : List TlbEnt := []
  /-- instruction cache (R8, R30): blocks of 64 bytes of HBM by number, as they were read -/
  icache   : List (Nat × List Byte) := []
  /-- the launch whose data the storage holds, and that storage (R22) -/
  owner    : Option (Nat × Nat) := none
  left     : Store := {}
  deriving DecidableEq, Repr

/-- Queue states (R161). -/
inductive QState where
  | free | active | error
  deriving DecidableEq, Repr

/-- A record or reservation of a work queue (R162 to R164). -/
inductive QEnt where
  | resv (holder : Nat) (heldNs : Nat)
  | rec_ (r : BitVec 512) (void : Bool) (completion : Bool)
  deriving DecidableEq, Repr

/-- R285: when a core last reserved a ticket of a queue, whether in the second cycle of that nanosecond, and
the stream. -/
structure Took where
  time   : Word
  second : Bool
  st     : Stream
  deriving DecidableEq, Repr

/-- A work queue (R160 to R164). -/
structure WQ where
  state : QState := .free
  /-- the descriptor as last latched, with RIDX and RIDXADDR in their own fields -/
  desc  : BitVec 512 := 0
  ridx  : BitVec 32 := 0
  ridxAddr : Word := 0
  /-- the oldest ticket neither popped nor discarded -/
  head  : BitVec 32 := 0
  /-- what stands at that ticket and after it -/
  ents  : List QEnt := []
  /-- stalled `WQPOP`s in the order they began: core, instance, stream -/
  pops  : List (Nat × Nat × Stream) := []
  /-- stalled `WQPOP`s that a `DESTROY` met (R169) -/
  dead  : List (Nat × Nat × Stream) := []
  /-- for each core its last reservation by an instruction (R285) -/
  took  : SMap (Option Took) := []
  deriving DecidableEq, Repr

/-- The Reeve-held properties of a launch queue (R263, R318) and its open graph (R265, R280):
`epoch` numbers the graphs, `opened` says that a record has been taken since the graph opened, `lastCq`
is the CQ of the latest such record with CQEN, `sample` the first idle sample with its MTIME and sums. -/
structure LaunchQ where
  on      : Bool := false
  priv    : Bool := false
  qplots  : Word := 0
  asid    : BitVec 16 := 0
  epoch   : Nat := 0
  lastCq  : Option Nat := none
  retired : Nat := 0
  opened  : Bool := false
  sample  : Option (Nat × Nat × Nat) := none
  tInst   : Nat := 10000000000
  tStall  : Nat := 1000000
  tResv   : Nat := 100000000
  /-- the parser's slice for the queue (R306, R318), and its partition (R319) -/
  tSlice  : Nat := 1000
  part    : Nat := 0
  deriving DecidableEq, Repr

/-- A graph (R265): its home die, launch queue and which of that queue's graphs it is. -/
structure GraphId where
  die   : Nat
  q     : Nat
  epoch : Nat
  deriving DecidableEq, Repr

/-- Instances of a node that wait in a ready pool together (R273, R274): from one number on, at a level,
since an MTIME; the die whose dispatcher they wait for (R275), and their place in the order in which
instances joined its levels. -/
structure WaitRun where
  lo    : Nat
  n     : Nat
  level : Nat
  since : Nat
  pool  : Nat := 0
  ord   : Nat := 0
  deriving DecidableEq, Repr

/-- Node states (R268, R269). -/
inductive NState where
  | pending | ready | retired | failed
  deriving DecidableEq, Repr

/-- A node of a task graph (R265 to R272). -/
structure Node where
  g       : GraphId
  rec_    : BitVec 512
  hdr     : BitVec 512
  decl    : List (BitVec 128)
  priv    : Bool
  state   : NState := .pending
  pred    : Nat := 0
  succs   : List Nat := []
  failIn  : Bool := false
  total   : Nat := 0
  wait    : List WaitRun := []
  placed  : Nat := 0
  done    : Nat := 0
  failed  : Bool := false
  join    : Option Nat := none
  kidFail : Bool := false
  parent  : Option (Nat × Nat) := none
  user    : BitVec 32 := 0
  cq      : Option Nat := none
  groups  : SMap Nat := []
  deriving DecidableEq, Repr

/-- What a front end, dispatcher or module firmware reports (R171, R282, R323). -/
inductive Report where
  | parser (q reason : Nat)
  | completionLost (q : Nat)
  | bringUp (step : Nat)
  deriving DecidableEq, Repr

/-- A journal ring in HBM (R271, R312). -/
structure Journal where
  base : Nat := 0
  size : Nat := 0
  pos  : Nat := 0
  deriving DecidableEq, Repr

/-- An entry of the counter journal (R271), with the place in HBM that holds its bytes, which the replay of
R304 reads. -/
structure JEnt where
  addr  : Nat
  seq   : Nat
  cause : Nat
  node  : Nat
  count : Nat
  kind  : Nat
  deriving DecidableEq, Repr

/-- An entry of the launch journal (R312), with the place in HBM that holds its bytes, which the replay of
R304 reads: the node's number, its SEQ and its launch record, words 0 to 2 of its launch-queue record or its
spawner; beside them the graph, and whether the node took a failure when it was accepted (log 45). -/
structure LEnt where
  addr : Nat
  node : Nat
  seq  : Nat
  rec_ : BitVec 512
  words : BitVec 192
  spawner : Option (Nat × Nat)
  g    : GraphId
  failIn : Bool
  deriving DecidableEq, Repr

/-- A policy processor (R1): the registers of RV32IMC and its tightly coupled memory. -/
structure Cpu32 where
  pc  : BitVec 32 := 0
  x   : SMap (BitVec 32) := []
  mem : SMap Byte := []
  deriving DecidableEq, Repr

/-- Whose policy processor: a die's Reeve or a plot's supervisor (R1). -/
inductive Policer where
  | reeve (die : Nat)
  | supervisor (plot : Nat)
  deriving DecidableEq, Repr

/-- The Reeve of a die (R317, R318): whether it runs, and whether it has been reloaded since dispatch
stopped (R303). -/
structure Reeve where
  up      : Bool := false
  fresh   : Bool := false
  cpu     : Cpu32 := {}
  beatNs  : Nat := 0
  reports : List Report := []
  /-- the parser's time slices, by queue (R306) -/
  slices  : SMap Nat := []
  deriving DecidableEq, Repr

/-- The front-end parser of a die (R170, R306): the queue it serves, and how long it has. -/
structure Parser where
  cur   : Option Nat := none
  usedNs : Nat := 0
  deriving DecidableEq, Repr

/-- A compute die. -/
structure Die where
  wq       : SMap WQ := []
  /-- walk cache (R97) -/
  walks    : List WalkEnt := []
  lq       : SMap LaunchQ := []
  lqTurn   : Nat := 0
  nodes    : SMap (Option Node) := []
  nextNode : BitVec 32 := 0
  /-- for each level, the graphs with waiting instances in the order they are served (R273) -/
  rot      : SMap (List GraphId) := []
  /-- roots the Reeve registered, by ASID (R267) -/
  roots    : SMap (Option (BitVec 40)) := []
  sent     : SMap Nat := []
  recv     : SMap Nat := []
  age      : BitVec 5 := 16
  gran     : SMap Byte := []
  /-- 64-byte units of the granary with an uncorrectable error (R90, R302) -/
  granBad  : List Nat := []
  cj       : Journal := {}
  lj       : Journal := {}
  jseq     : BitVec 32 := 0
  /-- entries that still stand in the counter journal, newest first -/
  jlog     : List JEnt := []
  /-- entries of the launch journal not trimmed -/
  llog     : List LEnt := []
  /-- nodes whose continuation waits for room (R270, R272, R312) -/
  conts    : List Node := []
  /-- children that have retired while dispatch here is stopped: the parent, the child and whether it failed
  (R272, R303) -/
  downs    : List (Nat × Nat × Bool) := []
  stopped  : Bool := false
  /-- instances that have joined a level of this die's ready pool; the model's own (log 46) -/
  poolN    : Nat := 0
  reeve    : Reeve := {}
  parser   : Parser := {}
  deriving DecidableEq, Repr

/-- A plot (R7, R277, R283, R319). -/
structure Plot where
  budget  : Nat := 0
  perf    : SMap Word := []
  perfsel : SMap (BitVec 16) := []
  part    : Option Nat := none
  ready   : Bool := false
  supUp   : Bool := false
  /-- the plot supervisor's processor (R1) -/
  sup     : Cpu32 := {}
  deriving DecidableEq, Repr

/-- Privilege modes of a hart (R307). -/
inductive HMode where
  | machine | supervisor | user
  deriving DecidableEq, Repr

/-- A hart's own state (R307): the registers, mode and control registers of RV64GC. -/
structure HartCpu where
  mode : HMode := .machine
  pc   : Word := 0
  x    : SMap Word := []
  f    : SMap Word := []
  csr  : SMap Word := []
  deriving DecidableEq, Repr

/-- A hart of the host die (R307 to R310): its command page, its processor, its reservation (address, bytes
and the value it read), and what its last access came to. -/
structure Hart where
  cpu     : HartCpu := {}
  resv    : Option (Nat × Nat × Nat) := none
  die     : BitVec 3 := 0
  queue   : BitVec 11 := 0
  arg     : Word := 0
  hstat   : Word := 0
  herr    : BitVec 2 := 0
  pending : Bool := false
  rdata   : Word := 0
  afault  : Bool := false
  pfault  : Bool := false
  deriving DecidableEq, Repr

/-- Another module (R320, R321): its exports, the memory behind them, and by how much its MTIME is ahead of this
module's. -/
structure Peer where
  fenced  : Bool := false
  skew    : Int := 0
  exports : SMap (Option ExportEnt) := []
  mem     : SMap Byte := []
  deriving DecidableEq, Repr

/-- A module port (R320, R321). -/
structure ModPort where
  up      : Bool := false
  peer    : Nat := 0
  silentNs : Nat := 0
  retries : Nat := 0
  resent  : Nat := 0
  deriving DecidableEq, Repr

/-- What module firmware gives the Reeve of a die (R263, R317, R323): launch queues with their
descriptors and settings, registered roots (R267), budgets by plot, `cr.AGE`, the parser slice and the
journals. -/
structure Policy where
  queues : List (Nat × BitVec 512 × LaunchQ) := []
  roots  : SMap (Option (BitVec 40)) := []
  budgets : List (Nat × Nat) := []
  age    : BitVec 5 := 16
  slices : SMap Nat := []
  cj     : Journal := {}
  lj     : Journal := {}
  deriving DecidableEq, Repr

/-- A management session (R314): its number, and the identity key and certificate the module presented. -/
structure Session where
  id   : Nat
  key  : Nat
  cert : Cert
  deriving DecidableEq, Repr

/-- Module firmware, flash and the management port (R314 to R317, R322, R323): among them whether the HBM
is trained, the identity key pair derived at boot with Ndomon's certificate (R316), the clock with its part
of a second, and the dies' shares of the power budget in watts. -/
structure Firmware where
  stage    : Nat := 0
  powered  : Bool := true
  coolant  : Bool := true
  trained  : Bool := false
  identity : Option (Nat × Cert) := none
  shares   : List Nat := []
  flash    : SMap (Option Image) := []
  record   : Option CfgRecord := none
  seqCtr   : Nat := 0
  clock    : Nat := 0
  clockNs  : Nat := 0
  sessions : List Session := []
  nextSess : Nat := 0
  outbox   : List (List Byte) := []
  conIn    : List Byte := []
  conOut   : List Byte := []
  /-- what firmware gives the Reeve of each die -/
  policy   : SMap Policy := []
  /-- failures reported over the management port (R323) -/
  failures : List Report := []
  deriving DecidableEq, Repr

/-- Whose turn it is (log 1): a stream issues, an event of the table happens, time passes; or what has no
row there: a TLB, a walk cache (R97) or an instruction cache (R30) takes or drops an entry, a granary unit is
read ahead (R93), a location of a core, a unit of the granary or nothing but a supervisor goes wrong (R302,
R317), a byte of a spill ring changes (R163), a group is handed to a die (R275), a Reeve's heartbeat arrives
(R317), module firmware gives a Reeve new policy (R263, R267, R318) or the dies their power (R322), a policy
processor or a hart runs its next instruction (R1, R307), an interrupt line of a hart changes (R307),
another module's exports, time or retries reach this one (R313, R320), a session sets the clock, the operating
system writes to its console (R314), or coolant flows again (R322). -/
inductive Turn where
  | stream (core : Nat) (st : Stream)
  | event (i : Instr)
  | elapse (ns : Nat)
  | tlbFill (core : Nat) (va : Nat)
  | tlbDrop (core : Nat) (n : Nat)
  | walkFill (core : Nat) (va depth : Nat)
  | walkDrop (die : Nat) (n : Nat)
  | codeFill (core : Nat) (pa : Nat)
  | codeDrop (core : Nat) (n : Nat)
  | coreError (core : Nat) (spot : Spot) (loc : Word)
  | granaryError (die unit : Nat)
  | granaryRead (core : Nat) (e : Engine) (unit : Nat)
  | spillByte (die q off : Nat)
  | handGroup (die node group to_ : Nat)
  | supervisorHalt (plot : Nat)
  | policyStep (p : Policer)
  | hartStep (hart : Nat)
  | hartLine (hart n : Nat) (on : Bool)
  | powerShares (w : List Nat)
  | coolantFlow
  | peerExport (module n : Nat) (e : Option ExportEnt)
  | peerSkew (module : Nat) (ns : Int)
  | linkResend (port : Nat)
  | setClock (sess t : Nat)
  | consoleOut (b : List Byte)
  | heartbeat (die : Nat)
  | policy (die : Nat) (p : Policy)
  deriving DecidableEq, Repr

/-- The module. -/
structure State where
  /-- which agent moves next; the model's own (log 1) -/
  agenda  : List Turn := []
  /-- the core and stream whose instruction `exec` runs; the model's own (log 1) -/
  core    : Nat := 0
  stream  : Stream := .C
  /-- free-value counter; the model's own (log 5) -/
  free    : Nat := 0
  /-- number of the next instance; the model's own (log 1) -/
  nextUid : Nat := 1
  /-- module time in ns (R33) -/
  mtime   : Word := 0
  /-- HBM by physical address (R94) -/
  mem     : List Host.Cell := []
  /-- writes that the shuttles of their cores have not seen, in the order they were made (R111, R114);
  the model's own (log 13) -/
  lag     : List Lag := []
  cores   : SMap Core := []
  dies    : SMap Die := []
  plots   : SMap Plot := []
  harts   : SMap Hart := []
  exports : SMap (Option ExportEnt) := []
  /-- the bytes of the export table's entries (R308, R313) -/
  exportRaw : SMap (BitVec 512) := []
  peers   : SMap Peer := []
  ports   : SMap ModPort := []
  fw      : Firmware := {}
  deriving DecidableEq, Repr

/-- Why the model stops. Every cause of R36 is taken as an exception and is no fault of this type. -/
inductive Fault where
  /-- The device's own access (a context save area R299, a journal R271, a remap table R151) names a
  physical address that R94 says does not exist, and the spec says nothing of what follows. Raised
  by the operations that save a context, journal or write the remap table. Safe: the model stops
  where hardware does something the spec does not give. -/
  | physHole (addr : Nat)
  deriving DecidableEq, Repr

/-- Why an instruction has no meaning. -/
inductive Refusal where
  /-- An arm of `exec` whose instruction is not modelled. Raised by no meaning. Safe. -/
  | notModelled (mnemonic : String)
  deriving DecidableEq, Repr

/-- What an instruction answers. -/
abbrev Out := Host.Outcome State Fault Refusal

/-- The module after power-on reset, before its bring-up (R323): no instance, every queue FREE
(R161), nothing listed in memory (log 3), registers without a reset value at the values of log 4. -/
def State.reset : State := {}

end Sys2Proof.Machine
end

