-- ==== Sys2Proof/Machine/SMap.lean ====
section
/-! DEFINITION. Operations on numbered storage held as a rising list of the entries that differ from a
default: memory, scratchpad, register files and tables alike. -/

namespace Sys2Proof.Machine

/-- The entry of a number; the default where none is listed. -/
def SMap.get {α : Type} (d : α) : SMap α → Nat → α
  | [], _ => d
  | (j, y) :: t, k => if j = k then y else SMap.get d t k

/-- The list without the entries of a number. -/
def SMap.erase {α : Type} (m : SMap α) (k : Nat) : SMap α := m.filter fun e => e.1 != k

/-- Setting an entry; an entry equal to the default leaves the list. -/
def SMap.set {α : Type} [DecidableEq α] (d : α) : SMap α → Nat → α → SMap α
  | [], k, x => if x = d then [] else [(k, x)]
  | (j, y) :: t, k, x =>
    if j < k then (j, y) :: SMap.set d t k x
    else
      let r := SMap.erase ((j, y) :: t) k
      if x = d then r else (k, x) :: r

/-- Numbers given to consecutive values, without those equal to the default. -/
def SMap.run {α : Type} [DecidableEq α] (d : α) (k : Nat) : List α → SMap α
  | [] => []
  | x :: xs => if x = d then SMap.run d (k + 1) xs else (k, x) :: SMap.run d (k + 1) xs

/-- Setting consecutive entries from a number on. -/
def SMap.setList {α : Type} [DecidableEq α] (d : α) (m : SMap α) (k : Nat) (l : List α) : SMap α :=
  (m.filter fun e => e.1 < k) ++ SMap.run d k l ++ m.filter fun e => k + l.length ≤ e.1

/-- Changing every listed entry. -/
def SMap.mapVals {α : Type} [DecidableEq α] (d : α) (f : Nat → α → α) (m : SMap α) : SMap α :=
  (m.map fun e => (e.1, f e.1 e.2)).filter fun e => e.2 != d

/-- `n` consecutive entries from a number on. -/
def SMap.getList {α : Type} (d : α) (m : SMap α) (k n : Nat) : List α :=
  (List.range n).map fun i => SMap.get d m (k + i)

/-- Removing the entries of a range. -/
def SMap.clear {α : Type} (m : SMap α) (lo n : Nat) : SMap α :=
  m.filter fun e => e.1 < lo || lo + n ≤ e.1

/-- Numbers strictly rising and no entry equal to the default. -/
def SMap.wf {α : Type} [DecidableEq α] (d : α) : SMap α → Bool
  | [] => true
  | (j, y) :: t => y != d && t.all (fun e => j < e.1) && SMap.wf d t

/-- The canonical form of the module's memory: addresses rise and no listed byte is 0, which an
unlisted address reads as (log 3). -/
abbrev Memory.wf (m : List Host.Cell) : Bool := SMap.wf (0 : Byte) m

/-- One value of five. -/
def Five.get {α : Type} (f : Five α) : Stream → α
  | .C => f.c | .L => f.l | .M => f.m | .V => f.v | .S => f.s

/-- Replacing one value of five. -/
def Five.set {α : Type} (f : Five α) (st : Stream) (x : α) : Five α :=
  match st with
  | .C => { f with c := x } | .L => { f with l := x } | .M => { f with m := x }
  | .V => { f with v := x } | .S => { f with s := x }

/-- Applying a function to all five, with the stream's name. -/
def Five.map {α β : Type} (f : Five α) (g : Stream → α → β) : Five β :=
  ⟨g .C f.c, g .L f.l, g .M f.m, g .V f.v, g .S f.s⟩

/-- The streams in the order C, L, M, V, S. -/
def streams : List Stream := [.C, .L, .M, .V, .S]

/-- Bits [lo+n-1:lo] of a number. -/
def bits (x lo n : Nat) : Nat := x / 2 ^ lo % 2 ^ n

/-- A field of a bit vector as a number. -/
def fld {w : Nat} (x : BitVec w) (lo n : Nat) : Nat := bits x.toNat lo n

/-- A field as a Boolean. -/
def flag {w : Nat} (x : BitVec w) (i : Nat) : Bool := x.getLsbD i

/-- Bytes of a value, lowest first (R2). -/
def toBytes (n x : Nat) : List Byte := (List.range n).map fun i => .ofNat 8 (x / 2 ^ (8 * i))

/-- The value of bytes, lowest first (R2). -/
def ofBytes : List Byte → Nat
  | [] => 0
  | b :: t => b.toNat + 256 * ofBytes t

/-- `x` with bits [lo+n-1:lo] replaced by the low bits of `v`. -/
def putBits (x lo n v : Nat) : Nat := x - bits x lo n * 2 ^ lo + v % 2 ^ n * 2 ^ lo

end Sys2Proof.Machine
end

