-- ==== Sys2Proof/Machine/Access.lean ====
section
/-! DEFINITION. Reading and replacing the parts of the state: cores, the instance a core shows, its
streams, the fields of its job header (R14), and the causes of R36. -/

namespace Sys2Proof.Machine

/-- The causes of R36. -/
inductive Cause where
  | illegalOp | streamMismatch | operandClass | literalForm | priv | align | pageFault | access
  | semOvf | sheafCheck | cbInvalid | patchRange | decodeRatio | draught | ovfTrap | granaryWrite
  | eccUncorr | watchdog | brk | svc | queueState | remote
  deriving DecidableEq, Repr

/-- R36. -/
def Cause.code : Cause → Byte
  | .illegalOp => 0x01 | .streamMismatch => 0x02 | .operandClass => 0x03 | .literalForm => 0x04
  | .priv => 0x05 | .align => 0x06 | .pageFault => 0x07 | .access => 0x08 | .semOvf => 0x09
  | .sheafCheck => 0x0A | .cbInvalid => 0x0B | .patchRange => 0x0C | .decodeRatio => 0x0D
  | .draught => 0x0E | .ovfTrap => 0x0F | .granaryWrite => 0x10 | .eccUncorr => 0x11
  | .watchdog => 0x12 | .brk => 0x13 | .svc => 0x14 | .queueState => 0x15 | .remote => 0x16

/-- A cause with the value that `pcr.FADDR` receives (R289). -/
structure Trap where
  cause : Cause
  addr  : Word
  deriving DecidableEq, Repr

/-- An outcome that may be a cause. -/
abbrev T (α : Type) := Except Trap α

/-- Raising a cause. -/
def raiseT {α : Type} (c : Cause) (a : Word := 0) : T α := .error ⟨c, a⟩

/-- Raising a cause unless a condition holds. -/
def need (p : Bool) (c : Cause) (a : Word := 0) : T Unit := if p then .ok () else .error ⟨c, a⟩

/-- A core by its module-wide number (R7). -/
def State.coreAt (s : State) (n : Nat) : Core := s.cores.get {} n

/-- Replacing a core. -/
def State.setCore (s : State) (n : Nat) (c : Core) : State := { s with cores := s.cores.set {} n c }

/-- The instance a core shows: a pre-empting instance before its victim (R290). -/
def Core.act (c : Core) : Option Inst := match c.pre with
  | some i => some i
  | none => c.main

/-- Replacing the instance a core shows. -/
def Core.setAct (c : Core) (i : Inst) : Core :=
  if c.pre.isSome then { c with pre := some i } else { c with main := some i }

/-- The executing core. -/
def State.self (s : State) : Core := s.coreAt s.core

/-- The executing instance. -/
def State.inst (s : State) : Inst := s.self.act.getD {}

/-- Replacing the executing instance. -/
def State.setInst (s : State) (i : Inst) : State := s.setCore s.core (s.self.setAct i)

/-- The executing stream. -/
def State.str (s : State) : StreamSt := s.inst.streams.get s.stream

/-- Replacing a stream of an instance. -/
def Inst.setStr (i : Inst) (st : Stream) (x : StreamSt) : Inst :=
  { i with streams := i.streams.set st x }

/-- Replacing the executing stream. -/
def State.setStr (s : State) (x : StreamSt) : State := s.setInst (s.inst.setStr s.stream x)

/-- Changing one stream of an instance. -/
def Inst.modStr (i : Inst) (st : Stream) (f : StreamSt → StreamSt) : Inst :=
  i.setStr st (f (i.streams.get st))

/-- A die by its number (R7). -/
def State.dieAt (s : State) (n : Nat) : Die := s.dies.get {} n

/-- Replacing a die. -/
def State.setDie (s : State) (n : Nat) (d : Die) : State := { s with dies := s.dies.set {} n d }

/-- The die of a core and the plot of a core (R7). -/
def dieOf (core : Nat) : Nat := core / 96
@[inherit_doc dieOf] def plotOf (core : Nat) : Nat := core / 12

/-- The executing core's die. -/
def State.die (s : State) : Die := s.dieAt (dieOf s.core)

/-- A plot by its number (R7). -/
def State.plotAt (s : State) (n : Nat) : Plot := s.plots.get {} n

/-- Replacing a plot. -/
def State.setPlot (s : State) (n : Nat) (p : Plot) : State :=
  { s with plots := s.plots.set {} n p }

/-- A work queue of a die (R160). -/
def State.wqAt (s : State) (die q : Nat) : WQ := (s.dieAt die).wq.get {} q

/-- Replacing a work queue. -/
def State.setWq (s : State) (die q : Nat) (w : WQ) : State :=
  let d := s.dieAt die
  s.setDie die { d with wq := d.wq.set {} q w }

/-- A node of a die's table (R268). -/
def State.nodeAt (s : State) (die n : Nat) : Option Node := (s.dieAt die).nodes.get none n

/-- Replacing a node. -/
def State.setNode (s : State) (die n : Nat) (x : Node) : State :=
  let d := s.dieAt die
  s.setDie die { d with nodes := d.nodes.set none n (some x) }

/-- Bytes of scratchpad the job declares (R14 SPAD, R17). -/
def Inst.spadLen (i : Inst) : Nat := fld i.hdr 352 9 * 4096
/-- Tiles the job declares (R14 ACCT). -/
def Inst.acct (i : Inst) : Nat := fld i.hdr 368 10
/-- The job's draught request (R14). -/
def Inst.draught (i : Inst) : Nat := fld i.hdr 348 4
/-- HELD of an instance of a core (R33, R238, R276): it does not change during the instance (log 47). -/
def Core.held (c : Core) (i : Inst) : Bool := c.grant && i.draught != 0
/-- `%v` registers declared (R14). -/
def Inst.vcnt (i : Inst) : Nat := fld i.hdr 296 8
/-- `%m` registers declared (R14). -/
def Inst.mcnt (i : Inst) : Nat := fld i.hdr 304 4
/-- `%g` registers a stream declares (R14). -/
def Inst.gcnt (i : Inst) (st : Stream) : Nat := fld i.hdr (256 + 8 * st.num) 8
/-- An active stream (R14 ACTIVE). -/
def Inst.activeIn (i : Inst) (st : Stream) : Bool := flag i.hdr (464 + st.num)
/-- A resident worker (R14 RESIDENT). -/
def Inst.resident (i : Inst) : Bool := flag i.hdr 456
/-- A stream's entry address (R22). -/
def Inst.entry (i : Inst) (st : Stream) : Word :=
  .ofNat 64 (fld i.hdr 0 64 + fld i.hdr (64 + 32 * st.num) 32)

/-- RUNNING or DRAINING (R24). -/
def Phase.live : Phase → Bool
  | .running | .draining => true
  | _ => false

/-- C's names are switched to the handler copy (R29). -/
def Inst.handling (i : Inst) : Bool := i.inhnd || i.nmask

/-- Flags ORed into `cr.OVF` (R34). -/
def Inst.addFlags (i : Inst) (f : Flags) : Inst := { i with ovf := i.ovf ||| f }

/-- Flags ORed into the executing core's `cr.OVF` (R34). -/
def State.addFlags (s : State) (f : Flags) : State := s.setInst (s.inst.addFlags f)

/-- The number of the module (R316, R320). -/
def State.moduleNo (s : State) : Nat := (s.fw.record.map (·.moduleNo)).getD 0

/-- R323: module firmware, and with it the harts, run. -/
def State.hartsRun (s : State) : Bool := 3 ≤ s.fw.stage

/-- The free-value counter advanced (log 5). -/
def State.nextFree (s : State) : State := { s with free := s.free + 1 }

end Sys2Proof.Machine
end

