-- ==== Sys2Proof/Machine/Mem.lean ====
section
/-! DEFINITION. Storage: address decoding (R84), translation (R94 to R97, R324), the bytes of HBM,
scratchpad and accumulators (R83), redirected writes (R301), store forwarding (R104), what a core's shuttle
sees (R111, R114, R223), armed tbars (R173) and locations with an uncorrectable error (R302). -/

namespace Sys2Proof.Machine

/-- First physical address past HBM (R94). -/
def hbmEnd : Nat := 0x018000000000

/-- What an access does at its address (R96). -/
inductive Acc where
  | read | write | fetch
  deriving DecidableEq, Repr

/-- R84: what a 64-bit address names. -/
inductive Place where
  | global (va : Nat)
  | local_ (off : Nat)
  | none
  deriving DecidableEq, Repr

/-- A canonical virtual address (R84). -/
def canonical (a : Nat) : Bool := a / 2 ^ 56 == 0 || a / 2 ^ 56 == 255

/-- R84. -/
def place (a : Nat) : Place :=
  if canonical a then .global a
  else if a / 2 ^ 56 = 0x40 ∧ a / 2 ^ 21 % 2 ^ 35 = 0 ∧ a % 2 ^ 21 ≤ 0x17FFFF then
    .local_ (a % 2 ^ 21)
  else .none

/-- Bytes of physical memory. -/
def State.rd (s : State) (pa n : Nat) : List Byte := SMap.getList 0 s.mem pa n

/-- A word of physical memory. -/
def State.rdWord (s : State) (pa : Nat) : Word := .ofNat 64 (ofBytes (s.rd pa 8))

/-- R301: where a byte written to a physical address lands: the page TO of the first valid entry of a
remap table (R151) of the address's die whose FROM is its page. -/
def State.remap (s : State) (pa : Nat) : Nat :=
  let home := pa / 0x003000000000
  let hits := s.cores.filterMap fun (n, c) =>
    if dieOf n != home then none
    else (List.range c.remapCnt.toNat).findSome? fun k =>
      let e := c.remapBase.toNat * 4096 + 16 * k
      let lo := s.rdWord e
      let hi := s.rdWord (e + 8)
      if flag lo 0 && fld lo 12 40 == pa / 4096 then some (fld hi 12 40 * 4096 + pa % 4096) else none
  hits.headD pa

/-- The aligned 8-byte word that holds a place, by its first byte. -/
def Loc.word : Loc → Loc
  | .hbm a => .hbm (a / 8 * 8)
  | .spad o => .spad (o / 8 * 8)
  | .acc o => .acc (o / 8 * 8)

/-- The number of a place in its storage. -/
def Loc.num : Loc → Nat
  | .hbm a => a
  | .spad o => o
  | .acc o => o

/-- A byte written over every value of its word that the entry's shuttle has not seen past. -/
def Lag.put (l : Loc) (b : Byte) (e : Lag) : Lag :=
  if e.loc = l.word then { e with old := e.old.set (l.num % 8) b } else e

/-- A place in HBM. -/
def Loc.isHbm : Loc → Bool
  | .hbm _ => true
  | _ => false

/-- R103, R107: every other instance's shuttle sees bytes of HBM that an instance's agents write. -/
def State.told (s : State) (core uid : Nat) (l : List (Loc × Byte)) : State :=
  let l := l.filter (·.1.isHbm)
  { s with lag := s.lag.map fun e =>
      if e.core = core ∧ e.uid = uid then e else l.foldl (fun e p => Lag.put p.1 p.2 e) e }

/-- Where a byte written to a place lands (R301). -/
def State.landing (s : State) : Loc → Loc
  | .hbm pa => .hbm (s.remap pa)
  | l => l

/-- Writing bytes of physical memory, each where it lands (R301), seen by every shuttle (R107). -/
def State.wr (s : State) (pa : Nat) (b : List Byte) : State :=
  let l := b.zipIdx.map fun (x, k) => (s.remap (pa + k), x)
  { s with mem := l.foldl (fun m p => SMap.set 0 m p.1 p.2) s.mem,
           lag := s.lag.map fun e => l.foldl (fun e p => Lag.put (.hbm p.1) p.2 e) e }

/-- The levels of the page tables (R95): lowest index bit, index bits, whether a leaf may stand. -/
def levels : List (Nat × Nat × Bool) :=
  [(48, 9, false), (39, 9, false), (30, 9, true), (21, 9, true), (16, 5, true)]

/-- R95, R96: the walk from a table; none is `PAGE_FAULT`. -/
def State.walk (s : State) (asid : BitVec 16) (va : Nat) :
    List (Nat × Nat × Bool) → Nat → Option TlbEnt
  | [], _ => none
  | (lo, n, leaf) :: rest, table =>
    let e := s.rdWord (table + 8 * bits va lo n)
    let ppn := fld e 12 40
    if !flag e 0 || fld e 52 12 != 0 || fld e 6 6 != 0 || flag e 2 then none
    else if flag e 1 then
      if leaf && ppn % 2 ^ (lo - 12) == 0 then
        some ⟨asid, va / 2 ^ lo * 2 ^ lo, 2 ^ lo, ppn * 4096, flag e 5, flag e 4, flag e 3⟩
      else none
    else if ppn * 4096 < hbmEnd then State.walk s asid va rest (ppn * 4096)
    else none

/-- R95: the table and the range that `depth` levels of a walk lead to. -/
def State.walkTo (s : State) (va : Nat) : Nat → List (Nat × Nat × Bool) → Nat → Option (Nat × Nat)
  | depth + 1, (lo, n, _) :: rest, table =>
    let e := s.rdWord (table + 8 * bits va lo n)
    let next := fld e 12 40 * 4096
    if !flag e 0 || fld e 52 12 != 0 || fld e 6 6 != 0 || flag e 2 || flag e 1 || hbmEnd ≤ next then none
    else if depth = 0 then some (2 ^ lo, next)
    else State.walkTo s va depth rest next
  | _, _, _ => none

/-- R97: a walk for an instance of a core, from the table its die's walk cache holds, or else from the
root through the tables as they stand. -/
def State.walkOf (s : State) (core : Nat) (l : Launch) (va : Nat) : Option TlbEnt :=
  match (s.dieAt (dieOf core)).walks.find? fun e => e.asid == l.asid && e.va ≤ va && va < e.va + e.size with
  | some e => s.walk l.asid va (levels.drop e.depth) e.table
  | none => s.walk l.asid va levels (l.root.toNat * 4096)

/-- R97: a translation from the core's TLB, or else from a walk. -/
def State.xlate (s : State) (core : Nat) (l : Launch) (a : Nat) : Option TlbEnt :=
  let va := a % 2 ^ 57
  match (s.coreAt core).tlb.find? fun e => e.asid == l.asid && e.va ≤ va && va < e.va + e.size with
  | some e => some e
  | none => s.walkOf core l va

/-- R97: a successful walk for the shown instance of a core enters its TLB, which holds 256 entries. -/
def State.fill (s : State) (core va : Nat) : State :=
  let c := s.coreAt core
  match s.walkOf core (c.act.getD {}).launch va with
  | some e => if c.tlb.contains e then s else s.setCore core { c with tlb := (e :: c.tlb).take 256 }
  | none => s

/-- R94, R96: the physical address of a byte, with its permissions checked. -/
def permit (e : Option TlbEnt) (acc : Acc) (priv : Bool) (va : Nat) : T Nat :=
  match e with
  | none => raiseT .pageFault (.ofNat 64 va)
  | some e =>
    let pa := e.pa + (va % 2 ^ 57 - e.va)
    if (acc == .write && !e.w) || (acc == .fetch && !e.x) || (!priv && !e.usr) || hbmEnd ≤ pa then
      raiseT .access (.ofNat 64 va)
    else .ok pa

/-- R84, R17, R96: where the byte at an address lies for an instance on a core. -/
def State.locByte (s : State) (core : Nat) (i : Inst) (acc : Acc) (a : Nat) : T Loc :=
  match place a with
  | .none => raiseT .access (.ofNat 64 a)
  | .local_ off =>
    if acc == .fetch || i.spadLen ≤ off then raiseT .access (.ofNat 64 a) else .ok (.spad off)
  | .global va => do
    .ok (.hbm (← permit (s.xlate core i.launch va) acc i.launch.priv va))

/-- A byte of an armed tbar (R173). -/
def Inst.armedAt (i : Inst) : Loc → Bool
  | .spad o => i.tbars.any fun t => t ≤ o && o < t + 16
  | _ => false

/-- R302: what names an uncorrectable error in a location of the core. -/
def Inst.badAt (i : Inst) (p : Spot) : Option Word := (i.bad.find? (·.1 == p)).map (·.2)

/-- R302: no error in locations that are read; otherwise `ECC_UNCORR` with the location. -/
def Inst.sound (i : Inst) (l : List Spot) : T Unit :=
  match l.findSome? i.badAt with
  | some w => raiseT .eccUncorr w
  | none => .ok ()

/-- The core's location of a byte; HBM is none of it. -/
def Loc.spot : Loc → Option Spot
  | .hbm _ => none
  | .spad o => some (.spad o)
  | .acc o => some (.acc o)

/-- R246, R302: the bytes at places of the core can be read; otherwise `ECC_UNCORR` with the address or offset by
which the access names the first byte that cannot, which is `base` above that byte's place. -/
def Inst.soundAt (i : Inst) (base : Int) (l : List Loc) : T Unit :=
  match l.find? fun x => x.spot.any fun p => (i.badAt p).isSome with
  | some x => raiseT .eccUncorr (.ofInt 64 (base + x.num))
  | none => .ok ()

/-- R84: a local address is this above its scratchpad offset. -/
def localBase : Nat := 0x4000000000000000

/-- The place in a stream's engine queue of the last held store that writes a byte. -/
def StreamSt.lastStore (x : StreamSt) (l : Loc) : Option Nat :=
  x.eq.zipIdx.foldl (fun r (it, k) => match it with
    | .store _ _ els => if els.any (·.any fun p => p.1 == l) then some k else r
    | _ => r) none

/-- R302: what a stream reads of its own held stores (R104) can be read. -/
def Inst.heldSound (i : Inst) (st : Stream) (l : List Loc) : T Unit :=
  let x := i.streams.get st
  if i.bad.isEmpty then .ok ()
  else i.sound (l.filterMap fun p => (x.lastStore p).map fun k => .held st (x.eqDone + k))

/-- R302: a location that is written holds no error. -/
def Inst.mend (i : Inst) (p : Spot) : Inst := { i with bad := i.bad.filter (·.1 != p) }

/-- R324: the places of the `n` bytes at an address, in the order of the bytes, each with its causes; a
write must meet no armed tbar (R173), and a read no uncorrectable error (R302). -/
def State.locate (s : State) (core : Nat) (i : Inst) (acc : Acc) (a n : Nat) : T (List Loc) := do
  let l ← (List.range n).mapM fun k => s.locByte core i acc ((a + k) % 2 ^ 64)
  need (acc != .write || !l.any i.armedAt) .access (.ofNat 64 a)
  if acc == .read then i.soundAt localBase l
  .ok l

/-- `locate` for the executing instance; what its stream reads of its own held stores is sound too (R302). -/
def State.at_ (s : State) (acc : Acc) (a n : Nat) : T (List Loc) := do
  let l ← s.locate s.core s.inst acc a n
  if acc == .read then s.inst.heldSound s.stream l
  .ok l

/-- A byte as it stands at its coherence point (R103). -/
def State.peek (s : State) (i : Inst) : Loc → Byte
  | .hbm pa => SMap.get 0 s.mem pa
  | .spad o => i.store.spad.get 0 o
  | .acc o => i.store.acc.get 0 o

/-- The last byte a list of writes puts in a place. -/
def lastTo (l : Loc) (w : List (Loc × Byte)) : Option Byte :=
  w.foldl (fun r p => if p.1 = l then some p.2 else r) none

/-- R104: the byte a stream's own unperformed stores leave at a place. -/
def StreamSt.fwd (x : StreamSt) (l : Loc) : Option Byte :=
  x.eq.foldl (fun r it => match it with
    | .store _ _ els => (lastTo l els.flatten).or r
    | _ => r) none

/-- R104: the bytes a stream of the executing instance reads. -/
def State.load (s : State) (st : Stream) (l : List Loc) : List Byte :=
  let i := s.inst
  let x := i.streams.get st
  l.map fun k => (x.fwd k).getD (s.peek i k)

/-- The value of the bytes a stream reads. -/
def State.loadVal (s : State) (st : Stream) (l : List Loc) : Nat := ofBytes (s.load st l)

/-- A byte of an instance's own storage written. -/
def Inst.poke (i : Inst) (l : Loc) (b : Byte) : Inst :=
  match l with
  | .spad o => { i with store := { i.store with spad := i.store.spad.set 0 o b } }.mend (.spad o)
  | .acc o => { i with store := { i.store with acc := i.store.acc.set 0 o b } }.mend (.acc o)
  | .hbm _ => i

/-- Who writes, as the shuttle of its core tells writers apart (log 13): a stream, or M for the Loom and
accumulator operations of any stream (R114), with the place in its engine queue of what writes. -/
structure Writer where
  st  : Stream
  pos : Nat
  deriving DecidableEq, Repr

/-- An access that the executing stream performs as it executes. -/
def State.me (s : State) : Writer := ⟨s.stream, s.str.eqDone + s.str.eq.length⟩

/-- The Loom, or an accumulator operation. -/
def Writer.loom : Writer := ⟨.M, 0⟩

/-- The eight bytes of a word at their coherence point. -/
def State.wordAt (s : State) (l : Loc) : List Byte :=
  (List.range 8).map fun k => s.peek s.inst (match l with
    | .hbm a => .hbm (a + k)
    | .spad o => .spad (o + k)
    | .acc o => .acc (o + k))

/-- The words that writes reach, each once. -/
def wordsHit (w : List (Loc × Byte)) : List Loc :=
  w.foldl (fun r p => if r.contains p.1.word then r else r ++ [p.1.word]) []

/-- The record of one write by a stream: what each word held before it (log 13). -/
def State.lagged (s : State) (x : Writer) (w : List (Loc × Byte)) : State :=
  let i := s.inst
  let n := i.lagN + 1
  { s.setInst { i with lagN := n } with
    lag := s.lag ++ (wordsHit w).map fun l => ⟨s.core, i.uid, l, s.wordAt l, x.st, n, x.pos⟩ }

/-- One write of the shuttle, or of the hardware, seen by its core's shuttle. -/
def State.seen (s : State) (w : List (Loc × Byte)) : State :=
  let uid := s.inst.uid
  { s with lag := s.lag.map fun e =>
      if e.core = s.core ∧ e.uid = uid then w.foldl (fun e p => Lag.put p.1 p.2 e) e else e }

/-- A byte written at its coherence point by the executing instance. -/
def State.poke (s : State) (l : Loc) (b : Byte) : State :=
  let s := s.setInst (s.inst.poke l b)
  match l with
  | .hbm pa => { s with mem := SMap.set 0 s.mem pa b }
  | _ => s

/-- Bytes written one after another by the executing instance; the shuttles of other cores see them (R107). -/
def State.puts (s : State) (w : List (Loc × Byte)) : State :=
  (w.foldl (fun s p => s.poke p.1 p.2) s).told s.core s.inst.uid w

/-- One write performed at its coherence point by the executing instance: its bytes, each where it lands
(R301). A write by a stream leaves what it overwrote for copies that have not joined it (R111, R114;
log 13). -/
def State.pokes (s : State) (by_ : Option Writer) (w : List (Loc × Byte)) : State :=
  let w := w.map fun p => (s.landing p.1, p.2)
  (match by_ with
    | some x => s.lagged x w
    | none => s.seen w).puts w

/-- Further bytes of a write by a stream that `pokes` has begun: their words are recorded already (R85). -/
def State.pokesMore (s : State) (w : List (Loc × Byte)) : State := s.puts (w.map fun p => (s.landing p.1, p.2))

/-- The writes of a word that the executing core's shuttle has not seen, oldest first. -/
def State.unseen (s : State) (l : Loc) : List Lag :=
  s.lag.filter fun e => e.core == s.core && e.uid == s.inst.uid && e.loc == l.word

/-- A byte as the executing core's shuttle sees it (R111, R114). -/
def State.view (s : State) (l : Loc) : Byte :=
  match s.unseen l with
  | e :: _ => e.old.getD (l.num % 8) 0
  | [] => s.peek s.inst l

/-- R103: the shuttle sees the first `k` writes of a word that it has not seen, and never goes back. -/
def State.see (s : State) (l : Loc) (k : Nat) : State :=
  let gone := (s.unseen l).take k
  { s with lag := s.lag.filter fun e => !gone.contains e }

/-- R111, R114: a write that a copy must see: one joined for it, or one of its issuer that precedes it. -/
def Cmd.sees (c : Cmd) (e : Lag) : Bool :=
  e.n ≤ c.joined.getD e.wr.num 0 || (e.wr == c.st && e.pos < c.after)

/-- A copy about to read a word: its shuttle sees every write that the copy must see, and all but the
last `back` of the others (log 13). -/
def State.look (s : State) (c : Cmd) (back : Nat) (l : Loc) : State :=
  let q := s.unseen l
  let must := q.length - (q.reverse.takeWhile fun e => !c.sees e).length
  s.see l (max must (q.length - back))

/-- A tile's image of the executing instance (R87). -/
def Inst.tile (i : Inst) (t : Nat) : List Nat :=
  (List.range 1024).map fun k => ofBytes (SMap.getList 0 i.store.acc (4096 * t + 4 * k) 4)

end Sys2Proof.Machine
end

