-- ==== Sys2Proof/Machine/Operands.lean ====
section
/-! DEFINITION. Operand forms: scalar, vector and mask sources and destinations of R38, R117, R179, the
age queue (R28), the handler copy (R29), codebook entries (R72, R73) and expanded operands (R183). -/

namespace Sys2Proof.Machine

/-- A stream's `%g` register: 0 for `%g0` (R26), the handler copy where R29 says so. -/
def Inst.g (i : Inst) (st : Stream) (n : Nat) : Word :=
  if n = 0 then 0
  else if st = .C ∧ i.handling ∧ 24 ≤ n then i.hg.get 0 n
  else (i.streams.get st).g.get 0 n

/-- Writing a `%g` register: a write to `%g0` is discarded (R26). -/
def Inst.setG (i : Inst) (st : Stream) (n : Nat) (v : Word) : Inst :=
  if n = 0 then i
  else if st = .C ∧ i.handling ∧ 24 ≤ n then { i with hg := i.hg.set 0 n v }.mend (.hg n)
  else (i.modStr st fun x => { x with g := x.g.set 0 n v }).mend (.g st n)

/-- A stream's age queue, newest first (R28, R29). -/
def Inst.ages (i : Inst) (st : Stream) : List Vec :=
  if st = .C ∧ i.handling then i.hage else (i.streams.get st).age

/-- R28: a push; the oldest entry is discarded. -/
def Inst.push (i : Inst) (st : Stream) (v : Vec) : Inst :=
  let q := (v :: i.ages st).take 16
  if st = .C ∧ i.handling then { i with hage := q } else i.modStr st fun x => { x with age := q }

/-- An entry of the executing stream's age queue. -/
def State.age (s : State) (n : Nat) : Vec := (s.inst.ages s.stream).getD n 0

/-- R117 `Val`: the value of a scalar source; an immediate or literal converted to type `ty`. -/
def State.val (s : State) (h : Head) (ty : Ty) : Src → Word
  | .reg n => s.inst.g s.stream n
  | .age n => (s.age n).setWidth 64
  | .imm v => .ofNat 64 (ty.imm v)
  | .lit => .ofNat 64 (ty.lit h.lit)

/-- R117 `Opd`. -/
def State.opd (s : State) (h : Head) (ty : Ty) (x : Src) : Int := ty.int (s.val h ty x).toNat

/-- R117 `Ext`. -/
def ext (ty : Ty) (x : Int) : Word := .ofInt 64 (ty.int (ty.wrap x))

/-- R117 `Result`: the destination is written, unless it is `%g0` or 0x40, and the result pushed. -/
def State.result (s : State) (d : Dst) (x : Word) : State :=
  let i := match d with
    | .reg n => s.inst.setG s.stream n x
    | .push => s.inst
  s.setInst (i.push s.stream (x.setWidth 2048))

/-- An address operand sum (R129). -/
def State.addr (s : State) (h : Head) (a b : Src) : Nat := (s.val h .i64 a + s.val h .i64 b).toNat

/-- A codebook entry of the executing instance. -/
def Inst.entryCb (i : Inst) (bank n : Nat) : CbEntry := i.store.cb.get {} (256 * bank + n)

/-- R72: VALID, no reserved bit, and the KIND asked for. -/
def CbEntry.ok (e : CbEntry) (kind : Nat) : Bool :=
  e.tag.toNat / 128 == 1 && e.tag.toNat / 4 % 32 == 0 && e.tag.toNat % 4 == kind && kind != 3

/-- The FP16 value of an entry of KIND 00. -/
def CbEntry.fl (e : CbEntry) : Fl := Ty.f16.decode (e.val.toNat % 65536)

/-- R73: an entry usable to decode a sheaf element. -/
def CbEntry.usable (e : CbEntry) : Bool :=
  e.ok 0 && match e.fl with
    | .fin _ s x => s == 0 || Dy.le (1, -14) (s, x)
    | _ => false

/-- R183: an entry's value in a vector lane of a type, with its flags; none where it is unusable. A signalling
NaN has no integer value, so for an integer type it is unusable and sets no NV (DESIGN CHOICE, log 16). -/
def CbEntry.lane (e : CbEntry) (ty : Ty) (mode : BitVec 2) : Option (Nat × Flags) :=
  if !e.ok 0 then none
  else match e.fl with
    | .nan s => if ty.isInt then none else some (ty.nanPat, Flags.nv.on s)
    | .inf n => if ty.isInt then none else some (ty.signed_ n ty.infPat, 0)
    | .fin n s x =>
      if ty.isInt then
        let (k, ix) := toInt 1 n s x
        if ix || k < ty.minInt || ty.maxInt < k then none else some (ty.wrap k, 0)
      else some (ty.rnd mode n s x false)

/-- A lane pattern of a vector register (R6 `Lane`). -/
def lane (v : Vec) (i w : Nat) : Nat := v.toNat / 2 ^ (w * i) % 2 ^ w

/-- Lanes put together, lane 0 lowest. -/
def ofLanes (w : Nat) (l : List Nat) : Vec :=
  .ofNat 2048 (l.foldr (fun x acc => x % 2 ^ w + acc * 2 ^ w) 0)

/-- All lanes of a vector at a width. -/
def lanesOf (v : Vec) (w : Nat) : List Nat := (List.range (2048 / w)).map fun i => lane v i w

/-- A `%v` register of V. -/
def State.vreg (s : State) (n : Nat) : Vec := s.inst.v.get 0 n

/-- A `%m` register of V. -/
def State.mask (s : State) (n : Nat) : MaskW := s.inst.mreg.get 0 n

/-- R180: lane `i` of width `w` is active under a mask. -/
def laneOn (m : MaskW) (w i : Nat) : Bool := m.getLsbD (if w = 4 then i / 2 else i)

/-- R180: the active lanes of a MASK field. -/
def State.act (s : State) (m : Fin 8) (w i : Nat) : Bool := m == 0 || laneOn (s.mask m) w i

/-- R179: a lane of a vector source read as a type, as a pattern with the flags of its expansion
(R183). `lw` is the literal's type. -/
def State.vlane (s : State) (h : Head) (ty : Ty) (x : VSrc) (i : Nat) : T (Nat × Flags) :=
  let w := ty.width
  match x with
  | .reg n => .ok (lane (s.vreg n) i w, 0)
  | .age n => .ok (lane (s.age n) i w, 0)
  | .imm v => .ok (ty.imm v, 0)
  | .lit => .ok (ty.lit h.lit, 0)
  | .cb k n =>
    let e := lane (s.vreg n) i w % 256
    match (s.inst.entryCb k e).lane ty s.str.rnd with
    | some r => .ok r
    | none =>
      if s.str.cbpol then .ok (0, Flags.cbz) else raiseT .cbInvalid (.ofNat 64 (256 * k + e))

/-- A mask source (R179). -/
def State.msrc (s : State) : MSrc → MaskW
  | .reg n => s.mask n
  | .age n => (s.age n).setWidth 256

/-- A vector result: the destination written and the whole result pushed (R181). -/
def State.vresult (s : State) (d : Dst) (v : Vec) : State :=
  let i := match d with
    | .reg n => { s.inst with v := s.inst.v.set 0 n v }.mend (.v n)
    | .push => s.inst
  s.setInst (i.push s.stream v)

/-- A mask result (R188, R28). -/
def State.mresult (s : State) (d : MDst) (m : MaskW) : State :=
  let i := match d with
    | .reg n => { s.inst with mreg := s.inst.mreg.set 0 n m }.mend (.m n)
    | .push => s.inst
  s.setInst (i.push s.stream (m.setWidth 2048))

/-- The old value of a vector destination: zero without a named one (R180). -/
def State.vold (s : State) : Dst → Vec
  | .reg n => s.vreg n
  | .push => 0

/-- The old value of a mask destination: zero without a named one (R180). -/
def State.mold (s : State) : MDst → MaskW
  | .reg n => s.mask n
  | .push => 0

end Sys2Proof.Machine
end

