-- ==== Sys2Proof/Machine/Context.lean ====
section
/-! DEFINITION. The context save area (R299, R300), the remap table (R151, R301), and the claims by
which a pre-empting instance takes its victim's storage (R296). -/

namespace Sys2Proof.Machine

/-- `n` free bytes, from the free-value counter on (log 5). -/
def freeBytes (k n : Nat) : List Byte := (List.range n).map fun j => Config.freeByte (k + j)

/-- Bytes written by the device itself at a physical address, each where it lands (R301); outside HBM
nothing is known. -/
def State.devWrite (s : State) (pa : Nat) (b : List Byte) : Except Fault State :=
  if b.isEmpty || pa + b.length ≤ hbmEnd then .ok (s.wr pa b) else .error (.physHole pa)

/-- Start of a core's context save area (R299). -/
def Core.ctx (c : Core) : Nat := c.ctxbase.toNat * 4096

/-- The image of a codebook bank (R72). -/
def Inst.cbImage (i : Inst) (b : Nat) : List Byte :=
  (List.range 256).flatMap (fun n => toBytes 8 (i.entryCb b n).val.toNat) ++
    (List.range 256).map fun n => (i.entryCb b n).tag

/-- A bank's entries from its image (R72). -/
def cbOfImage (l : List Byte) : List CbEntry :=
  (List.range 256).map fun n =>
    ⟨l.getD (2048 + n) 0, .ofNat 64 (ofBytes ((l.drop (8 * n)).take 8))⟩

/-- Offset in the context save area and bytes of a unit (R299). The raw tile has no layout of its
own there: it stays with the instance. -/
def Inst.unitBytes (i : Inst) : Unit_ → Nat × List Byte
  | .spad u => (0x080000 + 4096 * u, SMap.getList 0 i.store.spad (4096 * u) 4096)
  | .acc t => (0x200000 + 4096 * t, SMap.getList 0 i.store.acc (4096 * t) 4096)
  | .fur n => (0x020000 + 128 * n, toBytes 128 (i.store.fur.get 0 n).toNat)
  | .cb b => (0x024000 + 0x1000 * b, i.cbImage b)
  | .reed t => (0x02C000 + 0x2000 * t,
      (SMap.getList 0 i.store.reed (4096 * t) 4096).flatMap fun e => toBytes 2 e.toNat)
  | .md => (0x034000, SMap.getList 0 i.store.md 0 131072)
  | .raw => (0, [])

/-- A unit put back from its bytes (R297). -/
def Inst.setUnit (i : Inst) (b : List Byte) : Unit_ → Inst
  | .spad u => { i with store := { i.store with spad := i.store.spad.setList 0 (4096 * u) b } }
  | .acc t => { i with store := { i.store with acc := i.store.acc.setList 0 (4096 * t) b } }
  | .fur n => { i with store := { i.store with fur := i.store.fur.set 0 n (.ofNat 1024 (ofBytes b)) } }
  | .cb k => { i with store := { i.store with cb := SMap.setList ({} : CbEntry) i.store.cb (256 * k) (cbOfImage b) } }
  | .reed t =>
    let l := (List.range 4096).map fun k => BitVec.ofNat 16 (ofBytes ((b.drop (2 * k)).take 2))
    { i with store := { i.store with reed := i.store.reed.setList 0 (4096 * t) l } }
  | .md => { i with store := { i.store with md := i.store.md.setList 0 0 b } }
  | .raw => i

/-- The bit of the header that says a unit is saved (R300). -/
def Unit_.bit : Unit_ → Nat
  | .spad u => 64 * 8 + u
  | .acc t => 64 * 16 + t
  | .fur n => 64 * 28 + n
  | .cb b => 64 * 29 + b
  | .reed t => 64 * 29 + 8 + t
  | .md => 64 * 29 + 13
  | .raw => 64 * 29 + 14

/-- The header of a context (R300): 512 words. -/
def ctxHeader (preempt : Bool) (core ncmd : Nat) (saved : List Unit_) : List Byte :=
  let w0 := 2 ^ 63 + bit preempt * 2 ^ 62 + ncmd * 2 ^ 32 + core
  toBytes 4096 (w0 + (saved.map fun u => 2 ^ u.bit).sum)

/-- R232: a command's progress record; `mode` as for `CPY`. A command that has moved every point has no first
point not moved: its indices are 0 (DESIGN CHOICE, log 73). -/
def Cmd.progress (c : Cmd) (mode : Nat) : List Byte :=
  let b (k : Nat) : Nat := if k < 4 then fld c.snap (16 * k) 16 else fld c.snap (64 + 16 * (k - 4)) 16
  let (_, ix) := [5, 4, 3, 2, 1, 0].foldl (fun (p : Nat × List Nat) k =>
    (p.1 / max 1 (b k), p.1 % max 1 (b k) :: p.2)) (c.prog.pt, [])
  let it (k : Nat) := toBytes 2 (ix.getD k 0)
  it 0 ++ it 1 ++ it 2 ++ it 3 ++ it 4 ++ it 5 ++ toBytes 4 c.prog.dsrc ++
    toBytes 8 (bit c.started * 2 ^ 63 + bit c.prog.applied * 8 + mode) ++ toBytes 8 0

/-- The mode of a command's copy, 0 for the others (R232). -/
def CmdOp.mode : CmdOp → Nat
  | .fgo m _ | .cpy m _ _ _ => match m with
    | .plain => 0 | .unfold => 1 | .decode => 2 | .reduce => 3 | .ordered => 4
  | _ => 0

/-- The base a window was resolved to (R299): the ring slot, the remote window's base, or BASE. -/
def Cmd.winBase (c : Cmd) (w : Nat) : Nat :=
  match c.wins.getD w .plain with
  | .plain => fld c.snap (128 + 256 * w) 64
  | .ring lo _ => lo
  | .remote r => r.base

/-- A command record (R299). Where the tag, queue and stream stand in their 8 bytes is not given:
they are free bytes. -/
def Cmd.record (c : Cmd) (k : Nat) : List Byte :=
  let code := encodeBytes c.instr
  code ++ List.replicate (16 - code.length) 0 ++
    (List.range 4).flatMap (fun j => toBytes 8 (c.vals.getD j 0).toNat) ++ freeBytes k 8 ++
    c.progress c.op.mode ++ toBytes 128 c.snap.toNat ++
    (List.range 3).flatMap (fun w => toBytes 8 (c.winBase w)) ++ List.replicate 16 0

/-- The commands an instance holds, as R294 saves them. -/
def Inst.cmds (i : Inst) : List Cmd :=
  let q (x : StreamSt) := x.eq.filterMap fun | .cmd c => some c | _ => none
  i.copies ++ q i.streams.l ++ q i.streams.s ++ q i.streams.m ++ i.shq ++ i.timed

/-- Header, register block and command records written to the context save area (R294, R299). The
layout of the register block is not given: its bytes are free. -/
def State.saveContext (s : State) (core : Nat) (i : Inst) (preempt : Bool) (units : List Unit_) :
    Except Fault State := do
  let ctx := (s.coreAt core).ctx
  let n := i.cmds.length
  let s ← s.devWrite ctx (ctxHeader preempt core n units)
  let s ← s.devWrite (ctx + 0x1000) (freeBytes s.free 0x10000)
  let recs := i.cmds.zipIdx.flatMap fun (c, k) => c.record (s.free + 0x10000 + 8 * k)
  let s ← s.devWrite (ctx + 0x11000) recs
  let s ← units.foldlM (fun s u => let (o, b) := i.unitBytes u; s.devWrite (ctx + o) b) s
  .ok { s with free := s.free + 0x10000 + 8 * n }

/-- R296: a unit claimed from the victim: written to the save area and marked in the header. The
pre-empting instance's own unit is zero already. -/
def State.claim (s : State) (core : Nat) (u : Unit_) : Except Fault State :=
  let c := s.coreAt core
  match c.pre, c.main with
  | some _, some v =>
    if v.saved.contains u then .ok s
    else do
      let (o, b) := v.unitBytes u
      let s ← s.devWrite (c.ctx + o) b
      let a := c.ctx + 8 * (u.bit / 64)
      let w := (s.rdWord a).toNat
      let s ← s.devWrite a (toBytes 8 (if flag (s.rdWord a) (u.bit % 64) then w
        else w + 2 ^ (u.bit % 64)))
      .ok (s.setCore core { c with main := some { v with saved := v.saved ++ [u] } })
  | _, _ => .ok s

/-- Several claims. -/
def State.claims (s : State) (core : Nat) (l : List Unit_) : Except Fault State :=
  l.foldlM (fun s u => s.claim core u) s

/-- The units an instruction executed in its stream touches (R296); Loom commands claim when they
start. -/
def unitsOf : Instr → List Unit_
  | .fld _ f _ _ | .fst _ _ _ f | .fset _ _ f _ | .fpatch _ _ f _ | .fpatchMem _ _ f _ _
  | .fgo _ f | .fgoUnf _ f _ | .fgoDec _ f _ | .cpy _ _ f _ | .cpyUnf _ _ f _ _ | .cpyDec _ _ f _ _
  | .cpyRed _ _ f _ | .cpyOred _ _ f _ _ | .weave _ _ _ _ f _ _ _ => [.fur f]
  | .vcbx _ _ _ b _ _ _ _ => [.cb b]
  | .vldsh _ _ _ _ _ _ _ _ => (List.range 8).map .cb
  | .vstsh _ _ _ sm _ _ _ b _ _ _ => if 8 ≤ sm.val then [.cb b] else []
  | i => (expanded i).map .cb
where
  /-- Banks of expanded operands (R183). -/
  expanded : Instr → List Nat
    | .vadd _ _ _ _ a b | .vsub _ _ _ _ a b | .vmul _ _ _ _ a b | .vmulh _ _ _ _ a b
    | .vadds _ _ _ _ a b | .vsubs _ _ _ _ a b | .vmin _ _ _ _ a b | .vmax _ _ _ _ a b
    | .vand _ _ _ _ a b | .vor _ _ _ _ a b | .vxor _ _ _ _ a b | .vshl _ _ _ _ a b
    | .vshr _ _ _ _ a b | .vfadd _ _ _ _ a b | .vfsub _ _ _ _ a b | .vfmul _ _ _ _ a b
    | .vfdiv _ _ _ _ a b | .vfmin _ _ _ _ a b | .vfmax _ _ _ _ a b | .vpack _ _ _ _ a b
    | .vldexp _ _ _ _ a b | .vslide _ _ _ _ a b _ | .vzip _ _ _ _ _ a b | .vunzip _ _ _ _ _ a b
    | .vredsum _ _ _ _ a b | .vredmax _ _ _ _ a b | .vredmin _ _ _ _ a b | .vscan _ _ _ _ a b
    | .vcmp _ _ _ _ _ a b | .vsel _ _ _ _ a b => [a, b].filterMap bank
    | .vmad _ _ _ _ a b c | .vfma _ _ _ _ a b c | .vshuf _ _ _ _ a b c => [a, b, c].filterMap bank
    | .vabs _ _ _ _ a | .vmov _ _ _ _ a | .vfsqrt _ _ _ _ a | .vfabs _ _ _ _ a
    | .vfneg _ _ _ _ a | .vfrcp _ _ _ _ a | .vfexp2 _ _ _ _ a | .vcvt _ _ _ _ _ _ _ a
    | .vunpack _ _ _ _ _ a | .vtopk _ _ _ _ a _ => [a].filterMap bank
    | _ => []
  /-- The bank of an expanded operand. -/
  bank : VSrc → Option Nat
    | .cb k _ => some k
    | _ => none

end Sys2Proof.Machine
end

