-- ==== Sys2Proof/Machine/Flags.lean ====
section
/-! DEFINITION. Flags of lane-wise operations (R181): the flags of the active lanes are ORed into
`cr.OVF` when the instruction completes, and a cause of the lowest lane stops it before any effect. -/

namespace Sys2Proof.Machine

/-- The lanes of a result: `f i` for the lanes that `on` names, lowest lane first, the old lane
elsewhere; with the flags of the computed lanes. -/
def mapLanes (on : Nat → Bool) (old : Nat → Nat) (f : Nat → T (Nat × Flags)) :
    List Nat → T (List Nat × Flags)
  | [] => .ok ([], 0)
  | i :: t => do
    let (x, g) ← if on i then f i else .ok (old i, 0)
    let (r, k) ← mapLanes on old f t
    .ok (x :: r, g ||| k)

/-- A vector instruction that writes the lanes `on` names of a destination `d` of type `ty`
(R180, R181). -/
def State.someLanes (s : State) (on : Nat → Bool) (ty : Ty) (d : Dst) (f : Nat → T (Nat × Flags)) :
    T State := do
  let w := ty.width
  let old := s.vold d
  let (l, g) ← mapLanes on (fun i => lane old i w) f (List.range ty.lanes)
  .ok ((s.vresult d (ofLanes w l)).addFlags g)

/-- A lane-wise vector instruction: the lanes its mask names (R180). -/
def State.lanewise (s : State) (m : Fin 8) (ty : Ty) (d : Dst) (f : Nat → T (Nat × Flags)) :
    T State := s.someLanes (s.act m ty.width) ty d f

/-- The overflow policy in force: the instruction's own, or the stream's `cr.CVPOL` (R192). -/
def State.policy (s : State) : Option Pol → Pol
  | some p => p
  | none => match s.str.cvpol.toNat with
    | 0 => .sat | 1 => .inf | 2 => .nan | _ => .trap

end Sys2Proof.Machine
end

