-- ==== Sys2Proof/Machine/Ops.lean ====
section
/-! DEFINITION. The shared operations of every meaning: semaphores (R11, R12, R18), engine queues
(R111, R113), stopping and raising a cause (R286 to R289, R138), returning from the job's handler
(R139), and issuing an instruction (R12, R48, R118). -/

namespace Sys2Proof.Machine

/-- R283, R284: `n` events of a code counted on a core's plot. -/
def State.count (s : State) (core ev n : Nat) : State :=
  let p := s.plotAt (plotOf core)
  let perf := (List.range 8).foldl (fun (m : SMap Word) k =>
    if (p.perfsel.get 0 k).toNat = ev then m.set 0 k (m.get 0 k + .ofNat 64 n) else m) p.perf
  if perf = p.perf then s else s.setPlot (plotOf core) { p with perf }

/-- A semaphore's count (R11). -/
def Inst.semOf (i : Inst) (n : Fin 32) : Nat := (i.sem.get 0 n).toNat

/-- Setting a semaphore's count. -/
def Inst.setSem (i : Inst) (n : Fin 32) (v : Nat) : Inst := { i with sem := i.sem.set 0 n (.ofNat 16 v) }

/-- `pcr.FADDR` of a post that overflows (R289). -/
def postAddr (n : Fin 32) (amt : Nat) : Word := .ofNat 64 (2 ^ 63 + n * 65536 + amt)

/-- R11, R18: a post: the count rises, and the cursor of a ring whose semaphore it is advances. -/
def Inst.post (i : Inst) (n : Fin 32) (amt : Nat) : T Inst := do
  i.sound [.sem n]
  if 65535 < i.semOf n + amt then raiseT .semOvf (postAddr n amt)
  else
    let adv (r : Ring) : Ring :=
      if r.full = n then { r with prod := (r.prod + amt) % r.count }
      else if r.empty = n then { r with cons := (r.cons + amt) % r.count } else r
    .ok { i.setSem n (i.semOf n + amt) with rings := i.rings.map adv }

/-- A wait given back: the instruction has not started (log 7). -/
def Inst.giveBack (i : Inst) (w : Fin 32 × Nat) : Inst :=
  i.setSem w.1 (min 65535 (i.semOf w.1 + w.2))

/-- R12: a wait that meets no earlier waiter on its semaphore and enough of a count is granted. -/
def Inst.tryWait (i : Inst) (n : Fin 32) (amt : Nat) : Option Inst :=
  if i.waits.any (fun w => w.2.1 == n) || i.semOf n < amt then none
  else some (i.setSem n (i.semOf n - amt))

/-- R12: the place of a stall in the order of its semaphore's waiters. -/
def State.enlist (s : State) (w : Waiter) (n : Fin 32) (amt : Nat) : State :=
  s.setInst { s.inst with waits := s.inst.waits ++ [(w, n, amt)] }

/-- The `k`-th wait of the stream's instruction (its wait field, then a `SEMWAIT`'s own amount);
none where it stalls. It reads the count (R302). -/
def State.acquire (s : State) (k : Nat) (n : Fin 32) (amt : Nat) : T (Option State) :=
  if amt = 0 ∨ k < s.str.got.length then .ok (some s)
  else (s.inst.sound [.sem n]).map fun _ => (s.inst.tryWait n amt).map fun i =>
    s.setInst (i.modStr s.stream fun x => { x with got := x.got ++ [(n, amt)] })

/-- R99: the lock of a scratchpad offset. -/
def lockOf (o : Nat) : Lock := ⟨.ofNat 5 (bits o 6 5), .ofNat 6 (bits o 11 6) ^^^ .ofNat 6 (bits o 3 3)⟩

/-- R99: a stream's lock released where it is that of the first byte an `STU` stored. -/
def Inst.unlock (i : Inst) (st : Stream) (w : List (Loc × Byte)) : Inst :=
  match w with
  | (.spad o, _) :: _ => i.modStr st fun x => if x.lock = some (lockOf o) then { x with lock := none } else x
  | _ => i

/-- An entry of an engine queue whose stores are done. -/
def EqItem.gone : EqItem := .store false false []

/-- One element write of a store at a place of its stream's engine queue performed (R113); the last of an
`STU` gives the lock back (R99). -/
def State.performEl (s : State) (st : Stream) (pos : Nat) (unlock : Bool) (e : List (Loc × Byte)) : State :=
  let s := s.pokes (some ⟨st, pos⟩) e
  if unlock then s.setInst (s.inst.unlock st e) else s

/-- R113: a stream's held stores performed, as they are before the streams stop; a damaged one never is (R302). -/
def State.performHeld (s : State) (st : Stream) : State :=
  let x := s.inst.streams.get st
  let bad (k : Nat) : Bool := (s.inst.badAt (.held st (x.eqDone + k))).isSome
  let s := x.eq.zipIdx.foldl (fun s (it, k) => match it with
    | .store _ u els => if bad k then s else els.foldl (fun s e => s.performEl st (x.eqDone + k) u e) s
    | _ => s) s
  s.setInst (s.inst.modStr st fun x => { x with eq := x.eq.zipIdx.map fun
    | (.store r u els, k) => if bad k then .store r u els else .gone
    | (it, _) => it })

/-- R146: the markers of a stream's `FENCE.X` withdrawn. -/
def Inst.dropMarkers (i : Inst) (owner : Stream) : Inst :=
  let f (it : EqItem) : EqItem := if it = .marker owner then .gone else it
  { i with streams := i.streams.map fun _ x => { x with eq := x.eq.map f } }

/-- The additions of a post field. -/
def postOf (h : Head) : List (Fin 32 × Nat) := if h.pamt = 0 then [] else [(h.psem, h.pamt)]

/-- A stream stopped at its instruction boundary: a stalled instruction has not started (R118,
R153, R146, R143), and a `PAUSE` ends, its post behind what stands before it (R144, R111). -/
def Inst.haltStr (i : Inst) (st : Stream) : Inst :=
  let x := i.streams.get st
  let i := x.got.foldl Inst.giveBack i
  let i := if x.join.isSome then i.dropMarkers st else i
  let ended : List EqItem := match x.pause with
    | some (_, h) => [.post (postOf h)]
    | none => []
  i.modStr st fun x =>
    { x with got := [], pause := none, join := none, joinShq := [], tbwait := false, eq := x.eq ++ ended }

/-- The same of the executing instance; an ended `PAUSE` has completed (R144, R284). -/
def State.haltStr (s : State) (st : Stream) : State :=
  let n := bit (s.inst.streams.get st).pause.isSome
  (s.setInst (s.inst.haltStr st)).count s.core 2 n

/-- R235, R287: `cr.MPROG` of a Loom that stops with a `WEAVE` running: its completed steps. A record
of the same step stands. -/
def Inst.quiesce (i : Inst) : Inst :=
  match i.streams.m.eq with
  | .cmd c :: _ => match c.op with
    | .weave _ _ _ _ _ _ =>
      let k := BitVec.ofNat 31 c.prog.pt
      if c.started && !(i.mprog.valid && i.mprog.kstep == k) then { i with mprog := ⟨true, k, 0⟩ } else i
    | _ => i
  | _ => i

/-- A wait of a stream's own instruction. -/
def Waiter.isInstr : Waiter → Bool
  | .instr _ => true
  | _ => false

/-- R286, R294: all five streams of the executing instance stop. What they wait for themselves is given up;
a queued command keeps its place among the waiters of its semaphore (R12, log 22). -/
def State.halt (s : State) : State :=
  let s := streams.foldl State.performHeld s
  let s := streams.foldl State.haltStr s
  let s := s.setInst { s.inst with waits := s.inst.waits.filter (!·.1.isInstr), ldlq := [], waiti := none }
  let d := s.die
  let core := s.core
  let uid := s.inst.uid
  s.setDie (dieOf core) { d with wq := d.wq.mapVals {} fun _ q =>
    { q with pops := q.pops.filter fun p => !(p.1 == core && p.2.1 == uid),
             dead := q.dead.filter fun p => !(p.1 == core && p.2.1 == uid) } }

/-- R138: causes the job's own handler may take. -/
def Cause.routable : Cause → Bool
  | .svc | .brk | .ovfTrap => true
  | _ => false

/-- R138: entry to the job's handler. -/
def Inst.handler (i : Inst) (st : Stream) (c : Cause) (arg : Byte) : Inst :=
  let i := { i with cause := c.code, causeSt := .ofNat 3 st.num, causeArg := arg,
                    trappc := i.streams.c.pc, inhnd := true }
  i.modStr .C fun x => { x with pc := i.trapvec }

/-- R286: the fault frame, and the instance STOPPED (R24). -/
def Core.frame (c : Core) (i : Inst) (st : Stream) (t : Trap) : Core :=
  let c := { c with fpc := i.streams.map fun _ x => x.pc, fcause := t.cause.code,
                    fstream := .ofNat 3 st.num, faddr := t.addr }
  c.setAct { i.quiesce with phase := .stopped (i.phase == .draining), stopNs := 0 }

/-- R139: the return from the job's handler; a command of the Loom that raised its cause executes again
(R236). -/
def Inst.retf (i : Inst) : Inst :=
  { i with inhnd := false, loomHeld := false }.modStr .C fun x => { x with pc := i.trappc }

/-- R142: the return from a nudge handler. -/
def Inst.nudgeret (i : Inst) : Inst :=
  { i with srcTbar := false, srcQueue := false, nmask := false }.modStr .C fun x =>
    { x with pc := i.nudgepc }

/-- A `FENCE.X` marker (R114). -/
def EqItem.isMarker : EqItem → Bool
  | .marker _ => true
  | _ => false

/-- What is done leaves a stream's engine queue where nothing but markers stands before it: a performed
store, or a post, whose next addition is made (R111); none where nothing leaves. An addition that overflows
leaves with those behind it in its post, and its cause (R154, R289), and so does a damaged post (R302). -/
def Inst.drainOne (st : Stream) (i : Inst) : Option (Inst × Option Trap) :=
  let x := i.streams.get st
  let marks := x.eq.takeWhile EqItem.isMarker
  let put (i : Inst) (q : List EqItem) (n : Nat) :=
    i.modStr st fun x => { x with eq := marks ++ q, eqDone := x.eqDone + n }
  match x.eq.dropWhile EqItem.isMarker with
  | .store _ _ [] :: q | .post [] :: q => some (put i q 1, none)
  | .post ((k, amt) :: r) :: q => match i.sound [.held st (x.eqDone + marks.length)], i.post k amt with
    | .error t, _ => some (put i q 1, some t)
    | .ok _, .ok i => some (put i (.post r :: q) 0, none)
    | .ok _, .error t => some (put i q 1, some t)
  | _ => none

/-- What is done leaves a stream's engine queue without a cause: an addition that overflows stays, and what
stands behind it (R288, log 61). -/
def Inst.flush (st : Stream) : Nat → Inst → Inst
  | 0, i => i
  | n + 1, i => match i.drainOne st with
    | some (j, none) => Inst.flush st n j
    | _ => i

/-- More than the entries and additions of a stream's engine queue. -/
def Inst.drainLen (i : Inst) (st : Stream) : Nat := 4 * (i.streams.get st).eq.length + 4

/-- `flush` to its end, of every stream. -/
def Inst.flushAll (i : Inst) : Inst := Machine.streams.foldl (fun i st => i.flush st (i.drainLen st)) i

/-- R286: the streams stop, the posts that wait for nothing more are made (R144), and the fault frame is
written for the plot supervisor. -/
def State.stop (s : State) (st : Stream) (t : Trap) : State :=
  let s := s.halt
  s.setCore s.core (s.self.frame s.inst.flushAll st t)

/-- Entries of a stream's engine queue that are done leave it. An addition that overflows raises `SEM_OVF`
(R289); in a stopped instance nothing is raised, and it stays (R288, log 61). -/
def State.drain (st : Stream) : Nat → State → State
  | 0, s => s
  | n + 1, s => match s.inst.drainOne st with
    | none => s
    | some (i, none) => State.drain st n (s.setInst i)
    | some (i, some t) => if s.inst.phase.live then (s.setInst i).stop st t else s

/-- `drain` to its end. -/
def State.settle (s : State) (st : Stream) : State :=
  s.drain st (s.inst.drainLen st)

/-- Every stream's queue settled, while no post of it stops the instance. -/
def State.settleAll (s : State) : State :=
  streams.foldl (fun s st => if s.inst.phase.live then s.settle st else s) s

/-- Taking an exception (R138, R286, R289): the job's handler is entered where R138 allows it, once the
streams have stopped and the posts of stores performed at that stop are made; otherwise the fault frame is
written for the plot supervisor. -/
def State.raise (s : State) (st : Stream) (t : Trap) (arg : Byte := 0) : State :=
  let i := s.inst
  if t.cause.routable && i.trapvec != 0 && !i.inhnd && !i.nmask then
    let s := s.halt
    (s.setInst (s.inst.handler st t.cause arg)).settleAll
  else s.stop st t

/-- R111: additions that wait for what stands before them in the stream's engine queue. -/
def State.postBehind (s : State) (st : Stream) (adds : List (Fin 32 × Nat)) : State :=
  (s.setInst (s.inst.modStr st fun x => { x with eq := x.eq ++ [.post adds] })).settle st

/-- The executing stream's pc moved, its granted waits spent. -/
def State.advance (s : State) (pc : Word) : State :=
  s.setStr { s.str with pc := pc, got := [], tbwait := false }

/-- An instruction completes (R11, R118): the pc moves and the additions are made. -/
def State.complete (s : State) (pc : Word) (adds : List (Fin 32 × Nat)) : State :=
  let s := (s.advance pc).count s.core 2 1
  if adds = [] then s else s.postBehind s.stream adds

/-- What an instruction's own effect comes to. -/
inductive Res where
  /-- completes; NextPC follows -/
  | done (s : State)
  /-- completes; the pc given follows -/
  | jump (pc : Word) (s : State)
  /-- raises a cause, not started -/
  | trap (t : Trap) (s : State)
  /-- completes and posts the additions given instead of its post field's -/
  | posts (adds : List (Fin 32 × Nat)) (s : State)
  /-- completes and then raises a cause with an argument (R137) -/
  | doneTrap (t : Trap) (arg : Byte) (s : State)
  /-- stalls, or goes on by itself: the state as it stands -/
  | hold (s : State)
  /-- the model stops -/
  | broken (f : Fault)

/-- The effect of an instruction that only computes or raises. -/
def Res.of (s : State) : T State → Res
  | .ok s' => .done s'
  | .error t => .trap t s

/-- A register the instance does not declare (R17). -/
def Inst.beyond (i : Inst) (st : Stream) : Use → Bool
  | .g n | .dg n => i.gcnt st ≤ n
  | .v n | .dv n => i.vcnt ≤ n
  | .m n | .k n | .dm n => i.mcnt ≤ n
  | .age | .lit _ | .none => false

/-- Instructions that R139, R142, R143 and R156 make illegal by the state of C's handlers. -/
def Inst.badNow (i : Inst) (st : Stream) : Instr → Bool
  | .retf _ => !(st == .C && i.inhnd)
  | .nudgeret _ => st == .C && !i.nmask
  | .waiti _ | .rdv _ => st == .C && i.handling
  | _ => false

/-- R48: the first decode fault of a decoded instruction in a stream. -/
def State.decodeFault (s : State) (i : Instr) : Option Cause :=
  let n := s.inst
  let f := (i.fields).getD (Head.zero.fields 0 0 0 0 0 0)
  if n.badNow s.stream i then some .illegalOp
  else if !(opStreams f.op).contains s.stream then some .streamMismatch
  else if opPriv f.op f.b && !n.launch.priv then some .priv
  else if i.uses.any (n.beyond s.stream) then some .operandClass
  else none

/-- R302: a unit of a table as a location. -/
def Unit_.spot : Unit_ → Option Spot
  | .fur n => some (.fur n)
  | .cb b => some (.cb b)
  | .reed t => some (.reed t)
  | .md => some .md
  | .raw => some .raw
  | .spad _ | .acc _ => none

/-- R302: the location that an operand field reads, in the handler copy where R29 says so; a masked
destination whose inactive lanes stay is read (R180). -/
def Inst.useSpot (c : Inst) (st : Stream) (merges : Bool) : Use → Option Spot
  | .g n => some (if st = .C ∧ c.handling ∧ 24 ≤ n then .hg n else .g st n)
  | .v n => some (.v n)
  | .m n | .k n => some (.m n)
  | .age => some (if st = .C ∧ c.handling then .hage else .age st)
  | .dv n => if merges then some (.v n) else none
  | .dm n => if merges then some (.m n) else none
  | _ => none

/-- R32: the location of a control register that a stream reads: its own copy, or the core's. -/
def crSpot (st : Stream) (n : Nat) : Spot :=
  .cr (if [0x00B, 0x00C, 0x00D, 0x012, 0x013].contains n then st else .C) n

/-- R136, R181: the control registers that govern an instruction, which it reads when it issues: those of V for a
vector instruction; for a command the tag it is stamped with, and the policies under which it decodes or
quantises sheaves (R66, R73, R256). -/
def governing (i : Instr) (st : Stream) : List Nat :=
  let op : Nat := match i.fields with
    | some f => f.op.toNat
    | none => 0
  if 0x70 ≤ op ∧ op < 0xC0 then [0x00B, 0x00C, 0x012, 0x013]
  else if op = 0xC4 ∨ op = 0xD0 ∨ (0xE0 ≤ op ∧ st = .M) then
    0x00D :: match i with
      | .weave _ _ _ pair _ _ _ _ => if pair.sheaf then [0x012, 0x013] else []
      | .drain _ ty _ _ _ _ _ => if ty.isSheaf then [0x012] else []
      | _ => []
  else []

/-- The locations of a core that an instruction reads by naming them (R302): registers, entries of the age
queue, control registers, those that govern it too, furrow slots, codebook banks and a semaphore whose count is
its result. What it reads in storage is checked where it reads, and so is B of a `NUDGEARM`, which is read only
with bit 1 of A set (R140). -/
def spotsOf (c : Inst) (i : Instr) (st : Stream) : List Spot :=
  let u := match i with
    | .nudgearm h d a _ => Instr.uses (.nudgearm h d a (.imm 0))
    | i => i.uses
  let merges := u.any fun | .k _ => true | _ => false
  u.filterMap (c.useSpot st merges) ++ (governing i st).map (crSpot st) ++ match i with
    | .csrd _ _ n | .cswr _ _ n _ | .csset _ _ n _ | .csclr _ _ n _ => [crSpot st n.toNat]
    | .tagset _ _ _ => [crSpot st 0x00D]
    | .semrd _ _ n | .semset _ _ n _ => [.sem n]
    | .fld _ _ _ _ | .vldsh _ _ _ _ _ _ _ _ => []
    | i => (unitsOf i).filterMap Unit_.spot

/-- M waits for an `LSYNC` or `CBQ` of its own (R233). -/
def StreamSt.mBlocked (x : StreamSt) : Bool :=
  x.eq.any fun
    | .cmd c => match c.op with
      | .lsync | .cbq _ _ => true
      | _ => false
    | _ => false

/-- A stream of an instance that may issue now: RUNNING, active, not past its `RDV`, not stalled in
what an event ends; in the job's handler only C (R23, R24, R138). -/
def Inst.issues (i : Inst) (st : Stream) : Bool :=
  let x := i.streams.get st
  let handler := i.inhnd && st == .C
  i.phase.live && (handler || (!i.inhnd && i.phase == .running && x.active && !x.rdv)) &&
    x.pause.isNone && x.join.isNone && !(st == .C && i.waiti.isSome) &&
    !i.waits.any (fun w => w.1 == .instr st) && !i.ldlq.any (fun w => w.1 == st) &&
    !(st == .M && x.mBlocked)

/-- The executing stream may issue. -/
def State.issues (s : State) : Bool := s.self.act.isSome && s.inst.issues s.stream

/-- What follows from an instruction's own effect. Where the post of an `SVC` or `BRK` overflows, `SEM_OVF` is
framed and the instruction's own cause is not raised: DESIGN CHOICE (log 71). -/
def State.finish (s : State) (h : Head) (adds : List (Fin 32 × Nat)) : Res → State
  | .done s' => s'.complete (s.str.pc + .ofNat 64 h.len) adds
  | .jump pc s' => s'.complete pc adds
  | .trap t s' => s'.raise s'.stream t
  | .posts l s' => s'.complete (s.str.pc + .ofNat 64 h.len) l
  | .doneTrap t arg s' =>
    let s' := s'.complete (s.str.pc + .ofNat 64 h.len) adds
    if s'.inst.phase.live then s'.raise s'.stream t arg else s'
  | .hold s' => s'
  | .broken _ => s

/-- The outcome of an instruction's own effect. -/
def State.answer (s : State) (h : Head) (adds : List (Fin 32 × Nat)) : Res → Out
  | .broken f => .fault f
  | r => .next (s.finish h adds r)

/-- R184: a vector instruction would latch a codebook bank whose `CBLD` is in progress. -/
def State.latchBusy (s : State) (i : Instr) : Bool :=
  let busy (b : Nat) := s.inst.streams.m.eq.any fun
    | .cmd c => c.started && match c.op with
      | .cbld k _ => k.val == b
      | _ => false
    | _ => false
  (unitsOf i).any fun
    | .cb b => busy b
    | _ => false

/-- Issuing an instruction that runs in its stream (R11, R12, R48, R118): nothing happens where the
stream may not issue (log 6); then decode faults; then the wait; then its own effect. -/
def issue (i : Instr) (s : State) (body : State → Res) : Out :=
  let h := i.head
  if !s.issues then .next s
  else match s.decodeFault i with
    | some c => .next (s.raise s.stream ⟨c, 0⟩)
    | none =>
      match s.acquire 0 h.wsem h.wamt with
      | .error t => .next (s.raise s.stream t)
      | .ok none => .next (s.enlist (.instr s.stream) h.wsem h.wamt)
      | .ok (some s1) =>
        if s1.latchBusy i then .next s1
        else match s1.inst.sound (spotsOf s1.inst i s1.stream) with
        | .error t => .next (s1.raise s1.stream t)
        | .ok _ => match s1.claims s1.core (unitsOf i) with
          | .error f => .fault f
          | .ok s2 => s.answer h (postOf h) (body s2)

/-- Issuing an instruction that hands a command to an engine: its wait and post are the command's
(R11, R219, R222, R233). -/
def issueCmd (i : Instr) (s : State) (body : State → Res) : Out :=
  if !s.issues then .next s
  else match s.decodeFault i with
    | some c => .next (s.raise s.stream ⟨c, 0⟩)
    | none =>
      match s.inst.sound (spotsOf s.inst i s.stream) with
      | .error t => .next (s.raise s.stream t)
      | .ok _ => match s.claims s.core (unitsOf i) with
        | .error f => .fault f
        | .ok s2 => s.answer i.head [] (body s2)

/-- An entry of an engine queue that is an access still to be performed. -/
def EqItem.access : EqItem → Bool
  | .cmd _ => true
  | .store _ _ els => !els.isEmpty
  | .marker _ | .post _ => false

/-- Every access of a stream is performed (R105, R110): its commands and its stores. -/
def StreamSt.performed (x : StreamSt) : Bool := !x.eq.any EqItem.access

/-- R113: store instructions whose writes are not all performed. -/
def StreamSt.stores (x : StreamSt) : Nat :=
  (x.eq.filter fun | .store _ _ els => !els.isEmpty | _ => false).length

/-- R113: commands in a stream's engine queue. -/
def StreamSt.cmds (x : StreamSt) : Nat := (x.eq.filter fun | .cmd _ => true | _ => false).length

/-- The element writes of a store instruction that has made its checks: C's are performed at once,
another stream's enter its engine queue, or the instruction stalls while that is full (R113). -/
def State.store (s : State) (rel unlock : Bool) (els : List (List (Loc × Byte))) : Res :=
  if s.stream = .C then
    .done (els.foldl (fun s e => s.performEl .C s.me.pos unlock e) s)
  else if 16 ≤ s.str.stores then .hold s
  else if els.all (·.isEmpty) then .done s
  else .done (s.setStr { s.str with eq := s.str.eq ++ [.store rel unlock (els.filter (!·.isEmpty))] })

/-- An event of the device on a core: the executing core and stream are set for it. -/
def State.on (s : State) (core : Nat) (st : Stream) : State := { s with core := core, stream := st }

end Sys2Proof.Machine
end

