-- ==== Sys2Proof/Machine/Queue.lean ====
section
/-! DEFINITION. Work queues (R160 to R169, R171, R177): what the front end of a die does with records and
tickets, whoever asks. -/

namespace Sys2Proof.Machine

/-- Address-space number of a queue (R160). -/
def WQ.asid (q : WQ) : BitVec 16 := q.desc.extractLsb' 112 16
/-- RINGPARSE (R160). -/
def WQ.ringparse (q : WQ) : Bool := flag q.desc 96
/-- SIBLING (R160). -/
def WQ.sibling (q : WQ) : Nat := fld q.desc 80 11
/-- Capacity in records (R160). -/
def WQ.cap (q : WQ) : Nat := 32 + 2 ^ fld q.desc 64 5
/-- PKTLOG (R160). -/
def WQ.pktlog (q : WQ) : Nat := fld q.desc 192 5

/-- A reservation without its record. -/
def QEnt.isResv : QEnt → Bool
  | .resv _ _ => true
  | _ => false

/-- Outstanding reservations. -/
def WQ.resvs (q : WQ) : Nat := (q.ents.filter QEnt.isResv).length

/-- R163: a full queue. -/
def WQ.full (q : WQ) : Bool := q.cap ≤ q.ents.length || 64 ≤ q.resvs

/-- A deliverable record at the head of a queue (R177): committed and not void. -/
def WQ.deliverable (q : WQ) : Bool :=
  match q.ents with
  | .rec_ _ false _ :: _ => true
  | _ => false

/-- R163: committed void records at the head are discarded; `n` counts those that are no completion
records (R280). -/
def dropVoids (head : BitVec 32) : List QEnt → BitVec 32 × List QEnt × Nat
  | .rec_ _ true c :: t =>
    let (h, l, n) := dropVoids (head + 1) t
    (h, l, n + bit !c)
  | l => (head, l, 0)

/-- R280: records popped or discarded, and records committed, of an address space on a die. -/
def State.countRecv (s : State) (die : Nat) (asid : BitVec 16) (n : Nat) : State :=
  let d := s.dieAt die
  s.setDie die { d with recv := d.recv.set 0 asid.toNat (d.recv.get 0 asid.toNat + n) }
@[inherit_doc State.countRecv]
def State.countSent (s : State) (die : Nat) (asid : BitVec 16) (n : Nat) : State :=
  let d := s.dieAt die
  s.setDie die { d with sent := d.sent.set 0 asid.toNat (d.sent.get 0 asid.toNat + n) }

/-- R177: QP of every instance of the die that watches a queue. -/
def State.setQp (s : State) (die n : Nat) : State :=
  let f (i : Inst) : Inst := if i.watch = some n then { i with qp := true } else i
  { s with cores := s.cores.mapVals {} fun k c =>
      if dieOf k = die then { c with main := c.main.map f, pre := c.pre.map f } else c }

/-- A queue as an operation leaves it: void records at the head go (R163), and a first deliverable
record sets QP where it is watched (R177). -/
def State.putQueue (s : State) (die n : Nat) (q : WQ) : State :=
  let old := s.wqAt die n
  let (h, l, v) := dropVoids q.head q.ents
  let q := { q with head := h, ents := l }
  let s := s.setWq die n q
  let s := if v = 0 then s else s.countRecv die q.asid v
  if !old.deliverable && q.deliverable then s.setQp die n else s

/-- R163: the spill-ring slot of a ticket, as the tables registered for the queue's ASID place it. -/
def State.spillSlot (s : State) (die : Nat) (q : WQ) (t : BitVec 32) : Option Nat := do
  let a := (fld q.desc 0 64 + 64 * (t.toNat % 2 ^ fld q.desc 64 5)) % 2 ^ 64
  let root ← (s.dieAt die).roots.get none q.asid.toNat
  if canonical a then
    (permit (s.walk q.asid (a % 2 ^ 57) levels (root.toNat * 4096)) .write true a).toOption
  else none

/-- R163: a record held beyond the 32 entries on die leaves undefined bytes in its spill-ring slot
(log 5, log 25). Where the slot has no place that may be written nothing is written, and the record stands in
the queue all the same: DESIGN CHOICE (log 25). -/
def State.spill (s : State) (die : Nat) (q : WQ) (k : Nat) : State :=
  if k < 32 then s
  else match s.spillSlot die q (q.head + .ofNat 32 k) with
    | some pa => { s.wr pa (freeBytes s.free 64) with free := s.free + 64 }
    | none => s

/-- A record committed to the `k`-th entry (R163, R280). A record of TYPE 0x00 is void (R162). -/
def State.commitAt (s : State) (die n k : Nat) (r : BitVec 512) (completion : Bool) : State :=
  let q := s.wqAt die n
  let s := s.spill die q k
  let s := s.putQueue die n { q with ents := q.ents.set k (.rec_ r (fld r 0 8 == 0) completion) }
  if completion then s else s.countSent die q.asid 1

/-- R164: every ticket an instance holds on a die committed as a void record. -/
def State.voidTickets (s : State) (die uid : Nat) : State :=
  (s.dieAt die).wq.foldl (fun s (n, _) =>
    let q := s.wqAt die n
    let mine : QEnt → Bool
      | .resv h _ => h == uid
      | _ => false
    let k := (q.ents.filter mine).length
    if k = 0 then s
    else
      (s.putQueue die n { q with ents := q.ents.map fun e => if mine e then .rec_ 0 true false else e })
        |>.countSent die q.asid k) s

/-- A status word (R165). -/
def qStatus (none_ err : Bool) (t : BitVec 32) : Word :=
  .ofNat 64 (bit none_ * 2 ^ 63 + bit err * 2 ^ 62 + t.toNat)

/-- The ticket after the last one issued (R163). -/
def WQ.next (q : WQ) : BitVec 32 := q.head + .ofNat 32 q.ents.length

/-- The `WQSTAT` word (R168). -/
def WQ.stat (q : WQ) : Word :=
  let st := match q.state with | .free => 0 | .active => 1 | .error => 2
  .ofNat 64 (st * 2 ^ 62 + bit q.ringparse * 2 ^ 61 + (q.ents.length - q.resvs) % 2 ^ 24 * 2 ^ 32
    + q.resvs * 2 ^ 24 + q.head.toNat % 2 ^ 24)

/-- R169: a descriptor that `CREATE` accepts for a queue. -/
def descOk (n : Nat) (d : BitVec 512) : Bool :=
  let rp := flag d 96
  fld d 320 192 == 0 && fld d 97 15 == 0 && fld d 91 5 == 0 && fld d 69 11 == 0 && fld d 197 27 == 0 &&
    fld d 0 6 == 0 && 6 ≤ fld d 64 5 && fld d 64 5 ≤ 20 &&
    (!rp || (fld d 128 6 == 0 && fld d 256 3 == 0 && 1 ≤ fld d 192 5 && fld d 192 5 ≤ 16 && fld d 80 11 != n))

/-- `CREATE` on a FREE queue; none where the descriptor is refused (R161, R169). -/
def WQ.create (q : WQ) (n : Nat) (d : BitVec 512) : Option WQ :=
  if q.state = .free && descOk n d then
    some { q with state := .active, desc := d, ridx := d.extractLsb' 224 32, ridxAddr := d.extractLsb' 256 64,
                  head := 0, ents := [] }
  else none

/-- `RESTART` on a queue in ERROR (R169). -/
def WQ.restart (q : WQ) (d : BitVec 512) : Option WQ :=
  if q.state = .error then
    some { q with state := .active, ridx := d.extractLsb' 224 32, ridxAddr := d.extractLsb' 256 64 }
  else none

/-- `DESTROY` on a queue that is not FREE: the stalled `WQPOP`s will raise `QUEUE_STATE` (R169). HEAD returns
to 0 and the last descriptor stays for `WQSTAT` to show: DESIGN CHOICE (log 69). -/
def WQ.destroy (q : WQ) : Option WQ :=
  if q.state = .free then none
  else some { q with state := .free, head := 0, ents := [], dead := q.dead ++ q.pops, pops := [] }

/-- The bytes `READ` writes (R169). -/
def WQ.image (q : WQ) : List Byte :=
  toBytes 64 (putBits (putBits q.desc.toNat 224 32 q.ridx.toNat) 256 64 q.ridxAddr.toNat)

/-- A record popped from the head (R163, R167, R280). -/
def State.popQueue (s : State) (die n : Nat) : Option (BitVec 32 × BitVec 512 × State) :=
  let q := s.wqAt die n
  match q.ents with
  | .rec_ r false c :: t =>
    let s := s.putQueue die n { q with head := q.head + 1, ents := t }
    some (q.head, r, if c then s else s.countRecv die q.asid 1)
  | _ => none

/-- A launch queue's Reeve-held properties and graph (R263, R265). -/
def State.lqAt (s : State) (die q : Nat) : LaunchQ := (s.dieAt die).lq.get {} q

/-- Replacing them. -/
def State.setLq (s : State) (die q : Nat) (x : LaunchQ) : State :=
  let d := s.dieAt die
  s.setDie die { d with lq := d.lq.set {} q x }

/-- R265: a launch queue created anew opens a new graph. -/
def State.freshQueue (s : State) (die q : Nat) : State :=
  if q < 16 then
    let x := s.lqAt die q
    s.setLq die q
      { x with epoch := x.epoch + 1, lastCq := none, retired := 0, opened := false, sample := none }
  else s

end Sys2Proof.Machine
end

