-- ==== Sys2Proof/Machine/Scalar.lean ====
section
/-! DEFINITION. Integer arithmetic and logic: OP 0x00 to 0x16 (R119 to R123). -/

namespace Sys2Proof.Machine

/-- R42: whether a condition holds between two integers. -/
def Cond.holds (c : Cond) (x y : Int) : Bool :=
  match c with
  | .eq => x == y | .ne => x != y | .lt => x < y | .ge => y ≤ x | .le => x ≤ y | .gt => y < x

/-- A bitwise operation on two integers; `ext` keeps the low n bits. -/
def bitwise (f : Word → Word → Word) (x y : Int) : Int := (f (.ofInt 64 x) (.ofInt 64 y)).toInt

/-- A shift count (R119): b mod n. -/
def shiftBy (ty : Ty) (b : Int) : Nat := (b % ty.width).toNat

/-- The n-bit pattern as a signed number, whatever the signedness of the type. -/
def signedPat (ty : Ty) (a : Int) : Int := (Ty.intOf true ty.width).int (ty.wrap a)

/-- R119 `ROT`. -/
def rotPat (ty : Ty) (a : Int) (k : Nat) : Int :=
  let p := ty.wrap a
  ((p * 2 ^ k + p / 2 ^ (ty.width - k) : Nat) : Int)

/-- R121 `CLZ` of an n-bit pattern. -/
def clz (n p : Nat) : Nat := if p = 0 then n else n - 1 - Nat.log2 p

/-- R121 `POPC`. -/
def popc (n p : Nat) : Nat := ((List.range n).map fun k => bits p k 1).sum

/-- R121 `CTZ`. -/
def ctz (n p : Nat) : Nat := ((List.range n).find? fun k => bits p k 1 == 1).getD n

/-- R120: quotient and remainder, truncated toward zero; by zero −1 and the dividend. -/
def quoRem (a b : Int) : Int × Int := if b = 0 then (-1, a) else (a.tdiv b, a - a.tdiv b * b)

/-- R119: a two-operand instruction with result r. -/
def alu2 (h : Head) (ty : Ty) (d : Dst) (a b : Src) (r : Int → Int → Int) (s : State) : Res :=
  .done (s.result d (ext ty (r (s.opd h ty a) (s.opd h ty b))))

/-- R121: a one-operand instruction with result r of the n-bit pattern. -/
def alu1 (h : Head) (ty : Ty) (d : Dst) (a : Src) (r : Nat → Int) (s : State) : Res :=
  .done (s.result d (ext ty (r (ty.wrap (s.opd h ty a)))))

/-- R120: division sets DZ when the divisor is zero. -/
def divide (h : Head) (ty : Ty) (d : Dst) (a b : Src) (r : Int × Int → Int) (s : State) : Res :=
  let y := s.opd h ty b
  let t := s.result d (ext ty (r (quoRem (s.opd h ty a) y)))
  .done (if y = 0 then t.addFlags Flags.dz else t)

/-- `NOP` (R43): only its wait and post. -/
def execNop (h : Head) (s : State) : Out := issue (.nop h) s .done

/-- `ADD`: a + b (R119). -/
def execAdd (h : Head) (ty : Ty) (d : Dst) (a b : Src) (s : State) : Out :=
  issue (.add h ty d a b) s (alu2 h ty d a b (fun x y => x + y))

/-- `SUB`: a − b (R119). -/
def execSub (h : Head) (ty : Ty) (d : Dst) (a b : Src) (s : State) : Out :=
  issue (.sub h ty d a b) s (alu2 h ty d a b (fun x y => x - y))

/-- `MUL`: a × b (R119). -/
def execMul (h : Head) (ty : Ty) (d : Dst) (a b : Src) (s : State) : Out :=
  issue (.mul h ty d a b) s (alu2 h ty d a b (fun x y => x * y))

/-- `MULH`: the upper n bits of the product (R119). -/
def execMulh (h : Head) (ty : Ty) (d : Dst) (a b : Src) (s : State) : Out :=
  issue (.mulh h ty d a b) s (alu2 h ty d a b (fun x y => x * y / 2 ^ ty.width))

/-- `AND` (R119). -/
def execAnd (h : Head) (ty : Ty) (d : Dst) (a b : Src) (s : State) : Out :=
  issue (.and h ty d a b) s (alu2 h ty d a b (bitwise (· &&& ·)))

/-- `OR` (R119). -/
def execOr (h : Head) (ty : Ty) (d : Dst) (a b : Src) (s : State) : Out :=
  issue (.or h ty d a b) s (alu2 h ty d a b (bitwise (· ||| ·)))

/-- `XOR` (R119). -/
def execXor (h : Head) (ty : Ty) (d : Dst) (a b : Src) (s : State) : Out :=
  issue (.xor h ty d a b) s (alu2 h ty d a b (bitwise (· ^^^ ·)))

/-- `ANDN`: a AND NOT b (R119). -/
def execAndn (h : Head) (ty : Ty) (d : Dst) (a b : Src) (s : State) : Out :=
  issue (.andn h ty d a b) s (alu2 h ty d a b (bitwise fun x y => x &&& ~~~y))

/-- `SHL` (R119). -/
def execShl (h : Head) (ty : Ty) (d : Dst) (a b : Src) (s : State) : Out :=
  issue (.shl h ty d a b) s (alu2 h ty d a b (fun x y => x * 2 ^ shiftBy ty y))

/-- `SHR`: zeros enter the pattern (R119). -/
def execShr (h : Head) (ty : Ty) (d : Dst) (a b : Src) (s : State) : Out :=
  issue (.shr h ty d a b) s (alu2 h ty d a b (fun x y => (ty.wrap x / 2 ^ shiftBy ty y : Nat)))

/-- `SRA`: copies of the pattern's top bit enter (R119). -/
def execSra (h : Head) (ty : Ty) (d : Dst) (a b : Src) (s : State) : Out :=
  issue (.sra h ty d a b) s (alu2 h ty d a b (fun x y => signedPat ty x / 2 ^ shiftBy ty y))

/-- `ROT`: rotated left (R119). -/
def execRot (h : Head) (ty : Ty) (d : Dst) (a b : Src) (s : State) : Out :=
  issue (.rot h ty d a b) s (alu2 h ty d a b (fun x y => rotPat ty x (shiftBy ty y)))

/-- `MIN` (R119). -/
def execMin (h : Head) (ty : Ty) (d : Dst) (a b : Src) (s : State) : Out :=
  issue (.min h ty d a b) s (alu2 h ty d a b (fun x y => min x y))

/-- `MAX` (R119). -/
def execMax (h : Head) (ty : Ty) (d : Dst) (a b : Src) (s : State) : Out :=
  issue (.max h ty d a b) s (alu2 h ty d a b (fun x y => max x y))

/-- `DIV` (R120). -/
def execDiv (h : Head) (ty : Ty) (d : Dst) (a b : Src) (s : State) : Out :=
  issue (.div h ty d a b) s (divide h ty d a b (·.1))

/-- `REM` (R120). -/
def execRem (h : Head) (ty : Ty) (d : Dst) (a b : Src) (s : State) : Out :=
  issue (.rem h ty d a b) s (divide h ty d a b (·.2))

/-- `MOV` (R121). -/
def execMov (h : Head) (ty : Ty) (d : Dst) (a : Src) (s : State) : Out :=
  issue (.mov h ty d a) s (alu1 h ty d a (fun p => p))

/-- `CLZ` (R121). -/
def execClz (h : Head) (ty : Ty) (d : Dst) (a : Src) (s : State) : Out :=
  issue (.clz h ty d a) s (alu1 h ty d a (fun p => clz ty.width p))

/-- `POPC` (R121). -/
def execPopc (h : Head) (ty : Ty) (d : Dst) (a : Src) (s : State) : Out :=
  issue (.popc h ty d a) s (alu1 h ty d a (fun p => popc ty.width p))

/-- `CTZ` (R121). -/
def execCtz (h : Head) (ty : Ty) (d : Dst) (a : Src) (s : State) : Out :=
  issue (.ctz h ty d a) s (alu1 h ty d a (fun p => ctz ty.width p))

/-- `NOT` (R121). -/
def execNot (h : Head) (ty : Ty) (d : Dst) (a : Src) (s : State) : Out :=
  issue (.not h ty d a) s (alu1 h ty d a (fun p => 2 ^ ty.width - 1 - (p : Int)))

/-- `NEG` (R121). -/
def execNeg (h : Head) (ty : Ty) (d : Dst) (a : Src) (s : State) : Out :=
  issue (.neg h ty d a) s (alu1 h ty d a (fun p => -(p : Int)))

/-- `CMP` (R122). -/
def execCmp (h : Head) (c : Cond) (ty : Ty) (d : Dst) (a b : Src) (s : State) : Out :=
  issue (.cmp h c ty d a b) s fun s =>
    .done (s.result d (if Cond.holds c (s.opd h ty a) (s.opd h ty b) then 1 else 0))

/-- `SEL` (R122). -/
def execSel (h : Head) (ty : Ty) (d : Dst) (a b c : Src) (s : State) : Out :=
  issue (.sel h ty d a b c) s fun s =>
    .done (s.result d (ext ty (if s.opd h ty c ≠ 0 then s.opd h ty a else s.opd h ty b)))

/-- `EXT` (R123): `len1` is the length less one. -/
def execExt (h : Head) (ty : Ty) (d : Dst) (a b : Src) (len1 : BitVec 6) (s : State) : Out :=
  issue (.ext h ty d a b len1) s fun s =>
    let len := len1.toNat + 1
    let field := fld (s.val h ty a) ((s.val h ty b).toNat % 64) len
    .done (s.result d (if ty = .i64 then ((BitVec.ofNat len field).signExtend 64) else .ofNat 64 field))

/-- `INS` (R123): the old value is the destination register's. -/
def execIns (h : Head) (ty : Ty) (d : Dst) (a b : Src) (len1 : BitVec 6) (s : State) : Out :=
  issue (.ins h ty d a b len1) s fun s =>
    let p := (s.val h ty b).toNat % 64
    let old := match d with
      | .reg n => s.inst.g s.stream n
      | .push => 0
    let n := min (p + len1.toNat + 1) 64 - p
    .done (s.result d (.ofNat 64 (putBits old.toNat p n (s.val h ty a).toNat)))

/-- `ADDX` (R119): a + b × 2^sc. -/
def execAddx (h : Head) (sc : Fin 8) (ty : Ty) (d : Dst) (a b : Src) (s : State) : Out :=
  issue (.addx h sc ty d a b) s (alu2 h ty d a b fun x y => x + y * 2 ^ sc.val)

end Sys2Proof.Machine
end

