-- ==== Sys2Proof/Machine/Control.lean ====
section
/-! DEFINITION. Control transfer (R124 to R128), traps to the job (R137 to R139), nudges (R140 to R143),
`PAUSE` (R144) and `RDV` (R156). -/

namespace Sys2Proof.Machine

/-- NextPC (R117). -/
def State.nextPc (s : State) (h : Head) : Word := s.str.pc + .ofNat 64 h.len

/-- A relative target: PC + 8 × Val. -/
def State.rel (s : State) (h : Head) (t : Src) : Word := s.str.pc + 8 * s.val h .i64 t

/-- R127: a computed target must be a multiple of 8. -/
def jumpTo (s : State) (pc : Word) (s' : State) : Res :=
  if pc.toNat % 8 ≠ 0 then .trap ⟨.align, pc⟩ s else .jump pc s'

/-- R128: `CALL` pushes its return address on the return-address stack of 8 entries. -/
def State.rasPush (s : State) (pc : Word) : State := s.setStr { s.str with ras := (pc :: s.str.ras).take 8 }

/-- `BR` (R124); the hint changes no result (R128). -/
def execBr (h : Head) (c : Cond) (hint : Hint) (uns : Bool) (a b t : Src) (s : State) : Out :=
  issue (.br h c hint uns a b t) s fun s =>
    let x := s.val h .i64 a
    let y := s.val h .i64 b
    let yes := if uns then Cond.holds c x.toNat y.toNat else Cond.holds c x.toInt y.toInt
    if yes then .jump (s.rel h t) s else .done s

/-- `JMP` (R125). -/
def execJmp (h : Head) (t : Src) (s : State) : Out := issue (.jmp h t) s fun s => .jump (s.rel h t) s

/-- `JMP.ABS` (R125, R127). -/
def execJmpAbs (h : Head) (a : Src) (s : State) : Out :=
  issue (.jmpAbs h a) s fun s => jumpTo s (s.val h .i64 a) s

/-- `CALL` (R125): the result is NextPC. -/
def execCall (h : Head) (d : Dst) (t : Src) (s : State) : Out :=
  issue (.call h d t) s fun s =>
    .jump (s.rel h t) ((s.result d (s.nextPc h)).rasPush (s.nextPc h))

/-- `CALL.ABS` (R125, R127). -/
def execCallAbs (h : Head) (d : Dst) (a : Src) (s : State) : Out :=
  issue (.callAbs h d a) s fun s =>
    jumpTo s (s.val h .i64 a) ((s.result d (s.nextPc h)).rasPush (s.nextPc h))

/-- `RET` (R125, R127); it pops the return-address stack (R128). -/
def execRet (h : Head) (a : Src) (s : State) : Out :=
  issue (.ret h a) s fun s =>
    jumpTo s (s.val h .i64 a) (s.setStr { s.str with ras := s.str.ras.drop 1 })

/-- `LOOP` (R126). -/
def execLoop (h : Head) (d : Dst) (a t : Src) (s : State) : Out :=
  issue (.loop h d a t) s fun s =>
    let k := s.val h .n64 a
    if 1 < k.toNat then .jump (s.rel h t) (s.result d (k - 1)) else .done (s.result d 0)

/-- R137: the post is made before the cause is raised, so an instruction that has one first waits for the
accesses its post releases (R111). -/
def trapAfterPost (h : Head) (c : Cause) (code : Byte) (s : State) : Res :=
  if h.pamt = 0 || s.str.performed then .doneTrap ⟨c, 0⟩ code s else .hold s

/-- `SVC` (R137). -/
def execSvc (h : Head) (code : Byte) (s : State) : Out := issue (.svc h code) s (trapAfterPost h .svc code)

/-- `BRK` (R137). -/
def execBrk (h : Head) (code : Byte) (s : State) : Out := issue (.brk h code) s (trapAfterPost h .brk code)

/-- `RETF` (R139): its post is made, then C resumes at `cr.TRAPPC`. Outside the handler it is illegal
before its wait (`Inst.badNow`). -/
def execRetf (h : Head) (s : State) : Out :=
  issue (.retf h) s fun s => .jump s.inst.trappc (s.setInst s.inst.retf)

/-- `NUDGEARM` (R140): B is read only with bit 1 of A set. -/
def execNudgearm (h : Head) (d : Dst) (a b : Src) (s : State) : Out :=
  issue (.nudgearm h d a b) s fun s =>
    let i := s.inst
    let arm : BitVec 2 := (s.val h .i64 a).setWidth 2
    let old : Word := i.arm.setWidth 64
    if arm.getLsbD 1 then
      let q := s.val h .n64 b
      match s.inst.sound (([b.use 64] : List Use).filterMap (s.inst.useSpot s.stream false)) with
      | .error t => .trap t s
      | .ok _ =>
      if 2048 ≤ q.toNat then .trap ⟨.access, q⟩ s
      else
        let qp := i.qp || (s.wqAt (dieOf s.core) q.toNat).deliverable
        .done ((s.setInst { i with arm := arm, watch := some q.toNat, qp := qp }).result d old)
    else .done ((s.setInst { i with arm := arm }).result d old)

/-- `NUDGERET` (R142): outside a nudge handler it is illegal before its wait (`Inst.badNow`). -/
def execNudgeret (h : Head) (s : State) : Out :=
  issue (.nudgeret h) s fun s => .jump s.inst.nudgepc (s.setInst s.inst.nudgeret)

/-- `WAITI` (R143): C stalls until a nudge is delivered. -/
def execWaiti (h : Head) (s : State) : Out :=
  issue (.waiti h) s fun s => .hold (s.setInst { s.inst with waiti := some h })

/-- R141: a nudge is deliverable at C's instruction boundary; not after C's `RDV` (R156). -/
def Inst.nudgeDue (i : Inst) : Bool :=
  i.phase == .running && i.streams.c.active && !i.streams.c.rdv && !i.handling && i.nudgevec != 0 &&
    ((i.tbp && i.arm.getLsbD 0) || (i.qp && i.arm.getLsbD 1))

/-- R141: the sources copied and cleared, the handler copy, the handler's address. -/
def Inst.nudge (i : Inst) : Inst :=
  let t := i.tbp && i.arm.getLsbD 0
  let q := i.qp && i.arm.getLsbD 1
  let i := { i with srcTbar := t, srcQueue := q, tbp := i.tbp && !t, qp := i.qp && !q,
                    nudgepc := i.streams.c.pc, nmask := true }
  i.modStr .C fun x => { x with pc := i.nudgevec }

/-- C's stalled instruction left as not started (R118, R153), its `PAUSE` ended (R144). -/
def State.stopC (s : State) : State :=
  let s := s.haltStr .C
  let i := s.inst
  let s := s.setInst { i with waits := i.waits.filter (fun w => w.1 != .instr .C),
                              ldlq := i.ldlq.filter (fun w => w.1 != .C) }
  let d := s.die
  let core := s.core
  let uid := i.uid
  s.setDie (dieOf core) { d with wq := d.wq.mapVals {} fun _ q =>
    { q with pops := q.pops.filter fun p => !(p.1 == core && p.2.1 == uid && p.2.2 == .C),
             dead := q.dead.filter fun p => !(p.1 == core && p.2.1 == uid && p.2.2 == .C) } }

/-- R141, R143, R144: the delivery of a nudge on the executing core. A waiting `WAITI` or a `PAUSE` completes
first, with its post; where that post overflows, its cause is raised and the nudge stays pending. -/
def State.deliver (s : State) : State :=
  if !s.inst.nudgeDue then s
  else
    let s := match s.inst.waiti with
      | some h => (s.setInst { s.inst with waiti := none }).complete (s.nextPc h) (postOf h)
      | none => s.stopC.settleAll
    if s.inst.nudgeDue then (s.setInst s.inst.nudge).count s.core 0x0B 1 else s

/-- A nudge is delivered on a core (R141). -/
def execNudgeDelivery (core : Nat) (s : State) : Out := .next (s.on core .C).deliver

/-- `PAUSE` (R144): it counts as completed once its stall has begun. Its end is kept in cycles of the
2.0 GHz clock, two to a nanosecond of MTIME. -/
def execPause (h : Head) (a : Src) (s : State) : Out :=
  issue (.pause h a) s fun s =>
    let k := min (max (s.val h .n64 a).toNat 1) 4096
    let s := s.advance (s.nextPc h)
    .hold (s.setStr { s.str with pause := some (2 * s.mtime.toNat + k, h) })

/-- A `PAUSE` ends once its cycles have passed, and its post is made (R144). -/
def execPauseEnd (core : Nat) (st : Stream) (s : State) : Out :=
  let s := s.on core st
  match s.str.pause with
  | some (t, h) =>
    if t ≤ 2 * s.mtime.toNat && s.inst.phase.live then
      .next ((s.setStr { s.str with pause := none }).complete s.str.pc (postOf h))
    else .next s
  | none => .next s

/-- R24: RUNNING becomes DRAINING when the last active stream has executed `RDV`. -/
def Inst.rdvDone (i : Inst) : Inst :=
  if i.phase == .running && [.C, .L, .M, .V, .S].all (fun st => !(i.streams.get st).active || (i.streams.get st).rdv)
  then { i with phase := .draining } else i

/-- An `STU` that releases the stream's lock is not yet performed. -/
def StreamSt.freeing (x : StreamSt) : Bool :=
  x.eq.any fun
    | .store _ true els => els.flatten.any fun p => match p.1 with
      | .spad o => x.lock == some (lockOf o)
      | _ => false
    | _ => false

/-- `RDV` (R156): the stream's part in the iteration ends and its lock is released (R99); by an `STU` of
its own that has still to be performed where there is one. -/
def execRdv (h : Head) (s : State) : Out :=
  issue (.rdv h) s fun s =>
    let i := s.inst.modStr s.stream fun x =>
      { x with rdv := true, lock := if x.freeing then x.lock else none }
    .done (s.setInst i.rdvDone)

end Sys2Proof.Machine
end

