-- ==== Sys2Proof/Machine/Sheaf.lean ====
section
/-! DEFINITION. Sheaves: headers (R65, R66), element values (R67 to R71, R73), and quantising (R74 to
R78). -/

namespace Sys2Proof.Machine

/-- A sheaf header (R65). -/
structure Hdr where
  scale : Nat
  sel   : Nat
  aux   : Nat
  /-- the check of R66 holds -/
  ok    : Bool
  deriving DecidableEq, Repr

/-- Exclusive or of the bits of a number below 256. -/
def parity (x : Nat) : Nat := (((List.range 8).map fun k => bits x k 1).sum) % 2

/-- R65, R66. -/
def Hdr.of (x : Nat) : Hdr :=
  let s := bits x 8 8
  ⟨s, bits x 6 2, bits x 2 4,
    parity (bits x 2 6) == bits x 1 1 && parity s == bits x 0 1 && s != 255⟩

/-- The 16 bits of a header (R65, R78). -/
def hdrBits (scale sel aux : Nat) : Nat :=
  let lo := sel * 16 + aux
  scale * 256 + lo * 4 + parity lo * 2 + parity scale

/-- R69: the spares by AUX, in quarters. -/
def spares : List Int := [0, 1, 3, 10, 14, 20, 28, 32, 40, 48, -1, -3, -20, -28, -32, -48]

/-- R70: the NF4 values by code, in units of 2⁻⁶. -/
def nf4 : List Int := [-64, -44, -32, -24, -18, -12, -6, 0, 5, 10, 16, 22, 28, 36, 48, 64]

/-- An element's value without scale, or the codebook entry that is not usable (R68, R71, R73). -/
inductive Elem where
  | val (x : Fl)
  | bad (n : Nat)
  deriving DecidableEq, Repr

/-- An entry of a codebook bank as an element (R73). -/
def cbElem (cb : Nat → CbEntry) (n : Nat) : Elem :=
  if (cb n).usable then .val (cb n).fl else .bad n

/-- R68, R71: V(code). `cb` gives the entry at bank × 256 + number. -/
def elemOf (cb : Nat → CbEntry) (w8 : Bool) (sel aux code : Nat) : Elem :=
  let bank := aux % 8 * 256
  match w8, sel with
  | false, 0 => .val (Fl.ofInt (Ty.i4.int code))
  | false, 1 => .val (if code = 8 then Fl.ofDy (spares.getD aux 0, -2) false else Ty.e2m1.decode code)
  | false, 2 => .val (Fl.ofDy (nf4.getD code 0, -6) false)
  | false, _ => cbElem cb (bank + aux / 8 * 16 + code)
  | true, 0 => .val (Fl.ofInt (Ty.i8.int code))
  | true, 1 => .val (Ty.e4m3.decode code)
  | true, 2 => .val (Ty.e5m2.decode code)
  | true, _ => cbElem cb (bank + code)

/-- The codebook as elements see it. -/
def Inst.cbAt (i : Inst) (n : Nat) : CbEntry := i.store.cb.get {} n

/-- Two accesses of one lane or sheaf: of two causes a `PAGE_FAULT` comes first (R181). -/
def bothAt {α β : Type} (x : T α) (y : T β) : T (α × β) :=
  match x, y with
  | .ok a, .ok b => .ok (a, b)
  | .ok _, .error u => .error u
  | .error t, .ok _ => .error t
  | .error t, .error u => if t.cause ≠ .pageFault ∧ u.cause = .pageFault then .error u else .error t

/-- Where the header of a sheaf of a stook lies (R67). -/
def hdrAt (j : Nat) : Nat := 2 * j

/-- Where the byte of an element's code lies (R67). -/
def codeAt (w8 : Bool) (j i : Nat) : Nat := if w8 then 16 + 32 * j + i else 16 + 16 * j + i / 2

/-- An element's code in the byte that holds it. -/
def codeOf (w8 : Bool) (i byte : Nat) : Nat := if w8 then byte else bits byte (4 * (i % 2)) 4

/-- A code of a selector's set with its value (R74). -/
abbrev Code := Nat × Fl

/-- R74: the codes a selector may write. -/
def codeSet (cb : Nat → CbEntry) (w8 : Bool) (sel aux bank : Nat) (half : Bool) : List Code :=
  let aux := if sel = 3 then bank + (if w8 then 0 else bit half * 8) else aux
  (List.range (if w8 then 256 else 16)).filterMap fun c =>
    match elemOf cb w8 sel aux c with
    | .val x => match x with
      | .fin _ _ _ => some (c, x)
      | _ => none
    | .bad _ => none

/-- R74: MAXV. -/
def maxV (w8 : Bool) (sel : Nat) (q : List Code) : Dy :=
  match w8, sel with
  | false, 0 => (7, 0)
  | false, 1 => (6, 0)
  | false, 2 => (1, 0)
  | true, 0 => (127, 0)
  | true, 1 => (448, 0)
  | true, 2 => (57344, 0)
  | _, _ => q.foldl (fun m c => if Dy.lt m c.2.dy.abs then c.2.dy.abs else m) (0, 0)

/-- R76: the rank of a code among those equally near: lower is preferred, then the lower code. -/
def tieRank (w8 : Bool) (sel : Nat) (y : Fl) (c : Code) : Nat :=
  match w8, sel with
  | _, 0 => c.1 % 2
  | false, 1 => if c.1 = 8 then 2 else c.1 % 2
  | true, 1 | true, 2 => if c.2.isZero && c.2.isNeg != y.isNeg then 2 else c.1 % 2
  | _, _ => 0

/-- R76: `c` is preferred to `b` for y. -/
def nearer (w8 : Bool) (sel : Nat) (y : Fl) (c b : Code) : Bool :=
  let dist (x : Code) := (Dy.add x.2.dy (Dy.neg y.dy)).abs
  let dc := dist c
  let db := dist b
  Dy.lt dc db || (Dy.eq dc db &&
    (tieRank w8 sel y c < tieRank w8 sel y b ||
      (tieRank w8 sel y c == tieRank w8 sel y b && c.1 < b.1)))

/-- R76 `NearestCode`. -/
def nearest (w8 : Bool) (sel : Nat) (q : List Code) (y : Fl) : Code :=
  q.tail.foldl (fun b c => if nearer w8 sel y c b then c else b) (q.headD (0, .fin false 0 0))

/-- R77: the code of the value of largest magnitude of a sign, a zero of that sign included; none where no
value has it. -/
def farthest (q : List Code) (neg : Bool) : Option Code :=
  (q.filter fun c => c.2.isNeg == neg).foldl (fun b c => match b with
    | none => some c
    | some b => some (if Dy.lt b.2.dy.abs c.2.dy.abs then c else b)) none

/-- R75: the scale exponent for a largest magnitude. -/
def scaleFor (amax mv : Dy) : Int :=
  if amax.1 = 0 then -127
  else
    let top (x : Dy) : Int := (Nat.log2 x.1.natAbs : Int) + x.2
    let e := top amax - top mv
    let e := if Dy.le amax (mv.scale e) then e else e + 1
    max (-127) (min 127 e)

/-- A sheaf quantised under one selector. -/
structure Quant where
  sel   : Nat
  e     : Int
  codes : List Nat
  /-- FP32 value of the error sum (R75) -/
  err   : Fl
  deriving DecidableEq, Repr

/-- R75, R77: the codes, scale and error of a candidate selector. Where no value has the sign of an
infinity the code is free (log 5); `k` is the free-value counter. -/
def quantOne (w8 : Bool) (sel : Nat) (q : List Code) (k : Nat) (x : List Fl) : Quant :=
  let amax := x.foldl (fun m v => if Dy.lt m v.dy.abs then v.dy.abs else m) ((0, 0) : Dy)
  let e := scaleFor amax (maxV w8 sel q)
  let pick (v : Fl) (t : Nat) : Code :=
    match v with
    | .fin _ _ _ => nearest w8 sel q (v.scale (-e))
    | .inf n => (farthest q n).getD (Config.freeNat (k + t) % (if w8 then 256 else 16), .fin false 0 0)
    | .nan _ => nearest w8 sel q (.fin false 0 0)
  let cs := x.zipIdx.map fun (v, t) => (v, pick v t)
  let r32 (d : Dy) : Fl := Ty.f32.decode (rneDy d)
  let step (err : Fl) (p : Fl × Code) : Fl :=
    match p.1 with
    | .fin _ _ _ =>
      let d := r32 (Dy.add p.1.dy (Dy.neg (p.2.2.scale e).dy))
      let sq := Ty.f32.decode (rne32 (Fl.mul d d).1).1
      Ty.f32.decode (rne32 (Fl.add 0 err sq).1).1
    | _ => err
  ⟨sel, e, cs.map (·.2.1), cs.foldl step (.fin false 0 0)⟩

/-- What a quantising store names (R74). -/
structure QuantBy where
  w8   : Bool
  mask : Nat
  aux  : Nat
  bank : Nat
  half : Bool
  deriving DecidableEq, Repr

/-- R74, R75: the quantised sheaf of 32 values: the chosen selector's. -/
def quantise (cb : Nat → CbEntry) (b : QuantBy) (k : Nat) (x : List Fl) : Quant :=
  let set (sel : Nat) := codeSet cb b.w8 sel b.aux b.bank b.half
  let cand := (List.range 4).filter fun s =>
    bits b.mask s 1 == 1 && (s != 3 || (set s).any fun c => !c.2.isZero)
  let one (s : Nat) := quantOne b.w8 s (set s) k x
  match cand with
  | [] => one 0
  | s :: t => (t.map one).foldl (fun r y => if Fl.cmp y.err r.err < 0 then y else r) (one s)

/-- R78: AUX of the header written. -/
def QuantBy.auxOf (b : QuantBy) (sel : Nat) : Nat :=
  if sel = 1 && !b.w8 then b.aux
  else if sel = 3 then b.bank + (if b.w8 then 0 else bit b.half * 8) else 0

/-- R77: the flags of the special values. -/
def quantFlags (x : List Fl) : Flags :=
  (Flags.nan.on (x.any (·.isNaN))) ||| Flags.of.on (x.any fun | .inf _ => true | _ => false)

/-- R78: the header of a quantised sheaf. -/
def Quant.header (q : Quant) (b : QuantBy) : Nat := hdrBits (q.e + 127).toNat q.sel (b.auxOf q.sel)

/-- R67: the bytes of a quantised sheaf's codes. -/
def Quant.bytes (q : Quant) (w8 : Bool) : List Byte :=
  if w8 then q.codes.map (.ofNat 8)
  else (List.range 16).map fun i => .ofNat 8 (q.codes.getD (2 * i) 0 + 16 * q.codes.getD (2 * i + 1) 0)

end Sys2Proof.Machine
end

