-- ==== Sys2Proof/Machine/Furrow.lean ====
section
/-! DEFINITION. The furrow record (R208, R209), its iteration points and element offsets (R210, R211), and
which bytes a stream's own queued commands may touch (R104, R219). -/

namespace Sys2Proof.Machine

/-- Window kinds (R210). -/
inductive WKind where
  | unused | global | local_ | acc | granary | remote | ringp | ringc
  deriving DecidableEq, Repr

/-- R210. -/
def WKind.of : Nat → WKind
  | 1 => .global | 2 => .local_ | 3 => .acc | 4 => .granary | 5 => .remote | 6 => .ringp | 7 => .ringc
  | _ => .unused

/-- A ring kind. -/
def WKind.isRing : WKind → Bool
  | .ringp | .ringc => true
  | _ => false

/-- A furrow image. -/
abbrev Fur := BitVec 1024

/-- BOUND*k* (R208). -/
def fBound (f : Fur) (k : Nat) : Nat := fld f (16 * k) 16

/-- BASE*w*: unsigned, as every value without a sign of its own (log 20). -/
def fBase (f : Fur) (w : Nat) : Nat := fld f (128 + 256 * w) 64

/-- STRIDE*w*_*k*: signed 32 bits. -/
def fStride (f : Fur) (w k : Nat) : Int := (f.extractLsb' (192 + 256 * w + 32 * k) 32).toInt

/-- ATTR*w*. -/
def fAttr (f : Fur) (w : Nat) : Nat := fld f (96 + 8 * w) 8

/-- KIND*w* (R209). -/
def fKind (f : Fur) (w : Nat) : WKind := .of (fAttr f w % 8)

/-- ESIZE*w* in bytes (R209). -/
def fSize (f : Fur) (w : Nat) : Nat := 2 ^ (fAttr f w / 8 % 4)

/-- TARGET*w* (R209). -/
def fTarget (f : Fur) (w : Nat) : Nat := fAttr f w / 32

/-- OPER (R208). -/
def fOper (f : Fur) : Nat := fld f 120 8

/-- BMAX*k* (R208). -/
def fBmax (f : Fur) (k : Nat) : Nat := fld f (896 + 16 * k) 16

/-- WMASK (R208). -/
def fWmask (f : Fur) : Nat := fld f 992 8

/-- PATCHEN (R208). -/
def fPatchen (f : Fur) : Nat := fld f 1000 12

/-- A reserved bit of word 15 is set (R208). -/
def fReserved (f : Fur) : Bool := fld f 1012 12 != 0

/-- The six bounds, outermost first. -/
def fBounds (f : Fur) : List Nat := (List.range 6).map (fBound f)

/-- The number of iteration points (R211). -/
def fPoints (f : Fur) : Nat := (fBounds f).prod

/-- The indices of the `n`-th iteration point, level 5 varying fastest (R211). -/
def pointAt (b : List Nat) (n : Nat) : List Nat :=
  (b.foldr (fun k r => (r.1 / max 1 k, r.1 % max 1 k :: r.2)) (n, ([] : List Nat))).2

/-- R210: the offset of a point's element in a window, an exact integer. -/
def fOffset (f : Fur) (w : Nat) (ix : List Nat) : Int :=
  fBase f w + (ix.zipIdx.map fun (i, k) => (i : Int) * fStride f w k).sum

/-- The storage of a place. -/
def Loc.area : Loc → Area
  | .hbm _ => .hbm
  | .spad _ => .spad
  | .acc _ => .acc

/-- A place before runs of places. -/
def addRun (p : Loc) : List Span → List Span
  | x :: t => if x.area = p.area ∧ p.num + 1 = x.lo then ⟨x.area, p.num, x.n + 1⟩ :: t else ⟨p.area, p.num, 1⟩ :: x :: t
  | [] => [⟨p.area, p.num, 1⟩]

/-- Places as runs of consecutive ones. -/
def runsOf (l : List Loc) : List Span := l.foldr addRun []

/-- The bytes [lo, hi) share one with a run. -/
def Span.meets (x : Span) (lo hi : Int) : Bool := lo < x.lo + x.n && x.lo < hi

/-- The least and greatest sums of a loop nest. -/
def nestEnds (l : List (Nat × Int)) : Int × Int :=
  l.foldr (fun (b, k) r => (r.1 + min 0 ((b - 1 : Int) * k), r.2 + max 0 ((b - 1 : Int) * k))) (0, 0)

/-- Some element of `n` bytes of a loop nest from an offset on meets [lo, hi). -/
def nestHits (n : Nat) (lo hi : Int) : List (Nat × Int) → Int → Bool
  | [], o => o < hi && lo < o + n
  | (b, k) :: t, o =>
    let (m, x) := nestEnds t
    (List.range b).any fun j =>
      let o := o + j * k
      o + m < hi && lo < o + x + n && nestHits n lo hi t o

/-- The runs of virtual addresses in [lo, hi) that name bytes of a run of HBM: by pages of 64 KiB, the
smallest there are (R95), as the address space stands. -/
def State.named (s : State) (lo hi : Int) (x : Span) : List (Int × Int) :=
  (List.range ((hi - 1) / 65536 - lo / 65536 + 1).toNat).filterMap fun (k : Nat) =>
    let page : Int := (lo / 65536 + k) * 65536
    let va := (page % 2 ^ 64).toNat
    if !canonical va then none
    else match s.xlate s.core s.inst.launch va with
      | none => none
      | some e =>
        let p := e.pa + (va % 2 ^ 57 - e.va)
        let a : Int := page + (max x.lo p - p : Nat)
        let b : Int := page + (min (x.lo + x.n) (p + 65536) - p : Nat)
        let (a, b) := (max a lo, min b hi)
        if x.lo < p + 65536 ∧ p < x.lo + x.n ∧ a < b then some (a, b) else none

/-- The elements of a command's window, each `n` bytes from `off` bytes after its place, with more
levels, meet a run of bytes. -/
def State.winMeets (s : State) (c : Cmd) (w : Nat) (more : List (Nat × Int)) (off : Int) (n : Nat) (x : Span) : Bool :=
  let l := (List.range 6).map (fun k => (fBound c.snap k, fStride c.snap w k)) ++ more
  let b : Int := fBase c.snap w + off
  let at_ (b : Int) := nestHits n x.lo (x.lo + x.n) l b
  match fKind c.snap w, x.area with
  | .global, .hbm =>
    let (m, k) := nestEnds l
    (s.named (b + m) (b + k + n) x).any fun (u, v) => nestHits n u v l b
  | .local_, .spad | .acc, .acc | .granary, .gran => at_ b
  | .ringp, .spad | .ringc, .spad => match c.wins.getD w .plain with
    | .ring lo _ => at_ (lo + b)
    | _ => false
  | _, _ => false

/-- The `n` bytes at an address meet a run of bytes. -/
def State.runMeets (s : State) (a n : Nat) (x : Span) : Bool :=
  match place a, x.area with
  | .local_ o, .spad => x.meets o (o + n : Nat)
  | .global _, .hbm => !(s.named a (a + n : Nat) x).isEmpty
  | _, _ => false

/-- Bytes of a stook of a type (R69). -/
def stookBytes (t : Ty) : Nat := if t = .sh8 then 272 else 144

/-- Steps of an iteration point (R234). -/
def pairSteps (p : Pair) : Nat := if p.sheaf && p != .s4s4 then 2 else 1

/-- Depth of a step (R234). -/
def pairDepth (p : Pair) (sp : Bool) : Nat :=
  if p.sheaf then 32 / pairSteps p else 128 / p.tys.1.width * (if sp then 2 else 1)

/-- A byte as a stream of the executing instance would read it; 0 where it cannot. -/
def State.byteSeen (s : State) (st : Stream) (a : Nat) : Byte :=
  match s.locByte s.core s.inst .read (a % 2 ^ 64) with
  | .ok l => (s.load st [l]).headD 0
  | .error _ => 0

/-- R244: π(k) as a queued `WEAVE` with REED will read it: through the table that the last `REEDSEL` before it
selects, with the entries that a `REEDLD` before it loads, as things stand; none beyond the table. -/
def State.reedSeen (s : State) (c : Cmd) (k : Nat) : Option Nat :=
  let before := ((s.inst.streams.get c.st).eq.filterMap fun | .cmd b => some b | _ => none).takeWhile (·.id != c.id)
  let sel := before.foldl (fun r b => match b.op with
    | .reedsel t => t
    | _ => r) s.inst.reedsel
  match sel with
  | none => some k
  | some t =>
    if 4096 ≤ k then none
    else
      let load := before.foldl (fun r b => match b.op with
        | .reedld u a => if u = t then some a else r
        | _ => r) (none : Option Word)
      some ((match load with
        | some a => (s.byteSeen c.st (a.toNat + 2 * k)).toNat + 256 * (s.byteSeen c.st (a.toNat + 2 * k + 1)).toNat
        | none => (s.inst.store.reed.get 0 (4096 * t + k)).toNat) % 4096)

/-- R244: what a `WEAVE` with REED reads through a window meets a run of bytes: for every level-5 index and
every position of a row, the element or code that π names. -/
def State.reedMeets (s : State) (c : Cmd) (w : Nat) (sheaf : Bool) (t : Ty) (pitch d n : Nat) (x : Span) : Bool :=
  let flat : Cmd := { c with snap := .ofNat 1024 (putBits c.snap.toNat 80 16 1) }
  (List.range (min (fBound c.snap 5) (4096 / d))).any fun i =>
    let hits (more : List (Nat × Int)) (off : Int) (bytes : Nat) :=
      s.winMeets flat w more (i * fStride c.snap w 5 + off) bytes x
    (sheaf && hits [(4, pitch)] 0 16) || (List.range n).any fun e =>
      match s.reedSeen c (d * i + e) with
      | none => false
      | some y =>
        let r : Int := y - (d * i : Nat)
        if sheaf then
          0 ≤ r && r < 32 && hits [(4, pitch), (8, if t = .sh8 then 32 else 16)] (16 + if t = .sh8 then r else r / 2) 1
        else hits [(32, pitch)] (if t.width = 4 then r / 2 else r * (t.width / 8 : Nat)) (max 1 (t.width / 8))

/-- The runs a `DRAIN` writes under its parameter block (R254 to R256): address and length. -/
def drainRuns (ty : Ty) (a b : Nat) : List (Nat × Nat) :=
  let pitch := bits b 32 32
  let cols := bits b 8 5 + 1
  (List.range (bits b 0 5 + 1)).flatMap fun r =>
    if ty.isSheaf then
      let at_ := a + r / 8 * pitch
      [((at_ + hdrAt (r % 8)) % 2 ^ 64, 2),
       ((at_ + codeAt (ty == .sh8) (r % 8) 0) % 2 ^ 64, if ty == .sh8 then 32 else 16)]
    else [((a + r * pitch) % 2 ^ 64, if ty.width = 4 then (cols + 1) / 2 else cols * (ty.width / 8))]

/-- The parameter block of a `DRAIN`: as it has read it, or as its stream would read it now. -/
def State.blockSeen (s : State) (c : Cmd) (p : Nat) : Nat :=
  match c.started, place p with
  | true, _ => c.block
  | false, .local_ o => ofBytes (s.load c.st ((List.range 528).map fun k => .spad (o + k)))
  | _, _ => 0

/-- A queued command reads or writes a byte of a run (R104, R219, R241), as things stand: the runs it names; a
`DRAIN` under its parameter block, and a `WEAVE` with REED through its table, as they are now; for a decoding
`FGO` the longest stream its blocks can have (log 21). -/
def State.touches (s : State) (c : Cmd) (x : Span) : Bool :=
  match c.op with
  | .fgo mode _ =>
    let n := fPoints c.snap
    if n = 0 then false
    else if mode = .decode then
      s.winMeets c 1 [] 0 256 x || s.winMeets { c with snap := oneElement c.snap } 0 [] 0 (290 * n) x
    else s.winMeets c 0 [] 0 (fSize c.snap 0) x || s.winMeets c 1 [] 0 (fSize c.snap 1) x
  | .weave sp rd pair pitch _ _ =>
    let side (w : Nat) (t : Ty) (p n : Nat) :=
      if rd then s.reedMeets c w pair.sheaf t p (if pair.sheaf then 32 else pairDepth pair sp)
        (if pair.sheaf then 32 else if sp && w == 0 then pairDepth pair sp / 2 else pairDepth pair sp) x
      else if pair.sheaf then s.winMeets c w [(4, p)] 0 (stookBytes t) x
      else s.winMeets c w [(32, p)] 0 n x
    side 0 pair.tys.1 (fld pitch 0 24) 16 || side 1 pair.tys.2 (fld pitch 24 24) (if sp then 32 else 16)
  | .accld _ a | .accst a _ => s.runMeets a.toNat 4096 x
  | .accadd _ _ _ a _ => s.runMeets a.toNat 128 x
  | .drain ty _ _ a _ p =>
    s.runMeets p.toNat 528 x || (drainRuns ty a.toNat (s.blockSeen c p.toNat)).any fun (a, n) => s.runMeets a n x
  | .mdcopy o a n => o.toNat + n.toNat ≤ 131072 && s.runMeets a.toNat n.toNat x
  | .cbld _ a => s.runMeets a.toNat 2304 x
  | .reedld _ a => s.runMeets a.toNat 8192 x
  | _ => false
where
  /-- A snapshot with every bound 1. -/
  oneElement (f : Fur) : Fur :=
    .ofNat 1024 (putBits f.toNat 0 96 0x000100010001000100010001)

/-- R104: no command in the executing stream's engine queue touches the places. -/
def State.free_ (s : State) (l : List Loc) : Bool :=
  !s.str.eq.any fun
    | .cmd c => (runsOf l).any (s.touches c)
    | _ => false

/-- The runs that `n` bytes at an address are, as they lie now: by pages of 64 KiB (R95). -/
def State.spans (s : State) (a n : Nat) : List Span :=
  match place a with
  | .local_ o => [⟨.spad, o, n⟩]
  | .global _ => (List.range ((a + n - 1) / 65536 - a / 65536 + 1)).filterMap fun k =>
    let lo := max a ((a / 65536 + k) * 65536)
    let hi := min (a + n) ((a / 65536 + k + 1) * 65536)
    (s.xlate s.core s.inst.launch lo).map fun e => ⟨.hbm, e.pa + (lo % 2 ^ 57 - e.va), hi - lo⟩
  | .none => []

/-- What a command touches is known for certain only when it runs (log 21). -/
def CmdOp.guessed : CmdOp → Bool
  | .drain _ _ _ _ _ _ => true
  | .weave _ rd _ _ _ _ => rd
  | _ => false

/-- R104: M has accessed bytes behind commands of its queue that did not touch them as things stood (log 21). -/
def State.passes (s : State) (l : List Span) : State :=
  let f : EqItem → EqItem
    | .cmd c => .cmd (if c.op.guessed then { c with passed := c.passed ++ l } else c)
    | it => it
  s.setInst (s.inst.modStr .M fun x => { x with eq := x.eq.map f })

/-- R104: nor does a store it still holds write one of the places. -/
def State.unheld (s : State) (l : List Loc) : Bool :=
  !s.str.eq.any fun
    | .store _ _ els => els.any fun e => e.any fun p => l.contains p.1
    | _ => false

end Sys2Proof.Machine
end

