-- ==== Sys2Proof/Machine/Memory.lean ====
section
/-! DEFINITION. Loads, stores, locks and atomics (R99, R100, R102, R104, R129 to R134), fences (R110,
R114, R145, R146) and held store writes (R113). -/

namespace Sys2Proof.Machine

/-- Waiting for what stands before an access in its stream's engine queue (R104, R219). -/
def afterQueue (s : State) (l : List Loc) (r : Res) : Res := if s.free_ l then r else .hold s

/-- An outcome that stops at its first cause. -/
def Res.try_ {α : Type} (s : State) (x : T α) (k : α → Res) : Res :=
  match x with
  | .ok a => k a
  | .error t => .trap t s

/-- R85: natural alignment, then R84 and R96 for every byte. -/
def State.scalarAt (s : State) (acc : Acc) (a n : Nat) : T (List Loc) := do
  need (a % n == 0) .align (.ofNat 64 a)
  s.at_ acc a n

/-- The value a load gives (R130). -/
def loadExt (sx : Bool) (n x : Nat) : Word := if sx then .ofInt 64 ((BitVec.ofNat (8 * n) x).toInt) else .ofNat 64 x

/-- `LD` (R130). An acquire adds nothing here: a stream's loads are performed in order (log 8). -/
def execLd (h : Head) (sc : Scope) (acq sx : Bool) (sz : Size) (d : Dst) (a b : Src) (s : State) : Out :=
  issue (.ld h sc acq sx sz d a b) s fun s =>
    let ad := s.addr h a b
    let n := sz.bytes
    .try_ s (s.scalarAt .read ad n) fun l =>
      afterQueue s l (.done (s.result d (loadExt sx n (s.loadVal s.stream l))))

/-- The low bytes of a store's data (R130). -/
def State.data (s : State) (h : Head) (sz : Size) (c : Src) : List Byte :=
  toBytes sz.bytes (s.val h (Ty.intOf true (8 * sz.bytes)) c).toNat

/-- `ST` (R130). A release leaves its queue only after everything before it (R105). -/
def execSt (h : Head) (sc : Scope) (rel : Bool) (sz : Size) (a b c : Src) (s : State) : Out :=
  issue (.st h sc rel sz a b c) s fun s =>
    let ad := s.addr h a b
    .try_ s (s.scalarAt .write ad sz.bytes) fun l =>
      afterQueue s l (s.store (rel && sc != .stream) false [l.zip (s.data h sz c)])

/-- The address of an instruction that takes a lock (R99, R100). -/
def State.lockAddr (s : State) : Instr → Nat
  | .ldl h _ _ _ a b => s.addr h a b
  | .amoAdd h _ _ _ a _ | .amoAnd h _ _ _ a _ | .amoOr h _ _ _ a _ | .amoXor h _ _ _ a _
  | .amoSmin h _ _ _ a _ | .amoSmax h _ _ _ a _ | .amoUmin h _ _ _ a _ | .amoUmax h _ _ _ a _
  | .amoSwap h _ _ _ a _ | .amoCas h _ _ _ a _ _ => (s.val h .i64 a).toNat
  | _ => 0

/-- The lock an entry of the retry queue waits for. -/
def State.entryLock (s : State) (e : Stream × Instr) : Lock :=
  lockOf ((s.on s.core e.1).lockAddr e.2 % 2 ^ 21)

/-- R99: a lock that no other stream holds and none of the given earlier tries waits for. -/
def State.lockFree (s : State) (st : Stream) (k : Lock) (before : List (Stream × Instr)) : Bool :=
  [Stream.C, .L, .M, .V, .S].all (fun t => t == st || (s.inst.streams.get t).lock != some k) &&
    !before.any fun e => s.entryLock e == k

/-- R99: a try that fails waits in order. -/
def State.retry (s : State) (i : Instr) : Res :=
  .hold (s.setInst { s.inst with ldlq := s.inst.ldlq ++ [(s.stream, i)] })

/-- R131: `LDL` and `STU` admit local addresses only. -/
def localOnly (ad n : Nat) : T Unit := do
  need (ad % n == 0) .align (.ofNat 64 ad)
  need (match place ad with | .local_ _ => true | _ => false) .access (.ofNat 64 ad)

/-- An `STU` of the stream is not yet performed. -/
def StreamSt.unlocking (x : StreamSt) : Bool :=
  x.eq.any fun | .store _ u els => u && !els.isEmpty | _ => false

/-- `LDL` (R99, R131): `free` says that its lock can be taken. A stream's other lock is released first;
behind an `STU` of its own the stream waits, so that the lock outlasts that store. -/
def ldlBody (h : Head) (sx : Bool) (sz : Size) (d : Dst) (a b : Src) (free : State → Lock → Bool)
    (s : State) : Res :=
  let ad := s.addr h a b
  let n := sz.bytes
  .try_ s (do localOnly ad n; s.at_ .read ad n) fun l =>
    if s.str.unlocking then .hold s
    else afterQueue s l (
      let k := lockOf (ad % 2 ^ 21)
      let s := s.setStr { s.str with lock := none }
      if free s k then
        let s := s.setStr { s.str with lock := some k }
        .done (s.result d (loadExt sx n (s.loadVal s.stream l)))
      else s.retry (.ldl h sx sz d a b))

/-- `LDL` (R99, R131). -/
def execLdl (h : Head) (sx : Bool) (sz : Size) (d : Dst) (a b : Src) (s : State) : Out :=
  issue (.ldl h sx sz d a b) s
    (ldlBody h sx sz d a b fun s k => s.lockFree s.stream k s.inst.ldlq)

/-- `STU` (R99, R131): a release at `.core`. -/
def execStu (h : Head) (sz : Size) (a b c : Src) (s : State) : Out :=
  issue (.stu h sz a b c) s fun s =>
    let ad := s.addr h a b
    .try_ s (do localOnly ad sz.bytes; s.at_ .write ad sz.bytes) fun l =>
      afterQueue s l (s.store true true [l.zip (s.data h sz c)])

/-- An `AMO`'s read-modify-write at its coherence point (R100, R132). A global one is an effect that
re-execution would repeat (R293). -/
def amoNow (d : Dst) (n : Nat) (l : List Loc) (new : Nat → Nat) (s : State) : State :=
  let m := ofBytes (l.map (s.peek s.inst))
  let s := s.pokes (some s.me) (l.zip (toBytes n (new m)))
  let s := match l with
    | .hbm _ :: _ => s.setInst { s.inst with external := true }
    | _ => s
  s.result d (.ofNat 64 m)

/-- `AMO` (R100, R132): as release it waits for all its stream's earlier accesses, on scratchpad for
its lock, and in any case for its stream's own writes of its location. -/
def amoBody (i : Instr) (h : Head) (w64 : Bool) (sc : Scope) (d : Dst) (a b c : Src)
    (new : Nat → Nat → Nat → Nat → Nat) (free : State → Lock → Bool) (s : State) : Res :=
  let n := if w64 then 8 else 4
  let ty := Ty.intOf true (8 * n)
  let ad := (s.val h .i64 a).toNat
  .try_ s (do let l ← s.scalarAt .write ad n; s.inst.soundAt localBase l; .ok l) fun l =>
    if s.unheld l && s.free_ l && (sc == .stream || s.str.performed) then
      let v := (s.val h ty b).toNat % 2 ^ (8 * n)
      let e := (s.val h ty c).toNat % 2 ^ (8 * n)
      let s' := amoNow d n l (fun m => new (8 * n) m v e) s
      match place ad with
      | .local_ o => if free s (lockOf o) then .done s' else s.retry i
      | _ => .done s'
    else .hold s

/-- The `n`-bit pattern as a signed number. -/
def signedOf (n x : Nat) : Int := (BitVec.ofNat n x).toInt

/-- The sum modulo 2ⁿ. -/
def amoSum (n m v _e : Nat) : Nat := (m + v) % 2 ^ n
/-- Bitwise operations. -/
def amoAndF (_n m v _e : Nat) : Nat := m &&& v
@[inherit_doc amoAndF] def amoOrF (_n m v _e : Nat) : Nat := m ||| v
@[inherit_doc amoAndF] def amoXorF (_n m v _e : Nat) : Nat := m ^^^ v
/-- The signed minimum. -/
def amoSminF (n m v _e : Nat) : Nat := if signedOf n v < signedOf n m then v else m
/-- The signed maximum. -/
def amoSmaxF (n m v _e : Nat) : Nat := if signedOf n m < signedOf n v then v else m
/-- The unsigned minimum and maximum. -/
def amoUminF (_n m v _e : Nat) : Nat := min m v
@[inherit_doc amoUminF] def amoUmaxF (_n m v _e : Nat) : Nat := max m v
/-- The operand. -/
def amoSwapF (_n _m v _e : Nat) : Nat := v
/-- The operand where memory holds the expected value. -/
def amoCasF (_n m v e : Nat) : Nat := if m = e then v else m

/-- R99, R100: an `AMO` may use the lock as things stand: at once where its stream holds it. -/
def State.tryLock (s : State) (k : Lock) : Bool := s.str.lock == some k || s.lockFree s.stream k s.inst.ldlq

/-- `AMO.ADD` (R132). -/
def execAmoAdd (h : Head) (w64 : Bool) (sc : Scope) (d : Dst) (a b : Src) (s : State) : Out :=
  issue (.amoAdd h w64 sc d a b) s
    (amoBody (.amoAdd h w64 sc d a b) h w64 sc d a b (.imm 0) amoSum State.tryLock)

/-- `AMO.AND` (R132). -/
def execAmoAnd (h : Head) (w64 : Bool) (sc : Scope) (d : Dst) (a b : Src) (s : State) : Out :=
  issue (.amoAnd h w64 sc d a b) s
    (amoBody (.amoAnd h w64 sc d a b) h w64 sc d a b (.imm 0) amoAndF State.tryLock)

/-- `AMO.OR` (R132). -/
def execAmoOr (h : Head) (w64 : Bool) (sc : Scope) (d : Dst) (a b : Src) (s : State) : Out :=
  issue (.amoOr h w64 sc d a b) s
    (amoBody (.amoOr h w64 sc d a b) h w64 sc d a b (.imm 0) amoOrF State.tryLock)

/-- `AMO.XOR` (R132). -/
def execAmoXor (h : Head) (w64 : Bool) (sc : Scope) (d : Dst) (a b : Src) (s : State) : Out :=
  issue (.amoXor h w64 sc d a b) s
    (amoBody (.amoXor h w64 sc d a b) h w64 sc d a b (.imm 0) amoXorF State.tryLock)

/-- `AMO.SMIN` (R132). -/
def execAmoSmin (h : Head) (w64 : Bool) (sc : Scope) (d : Dst) (a b : Src) (s : State) : Out :=
  issue (.amoSmin h w64 sc d a b) s
    (amoBody (.amoSmin h w64 sc d a b) h w64 sc d a b (.imm 0) amoSminF State.tryLock)

/-- `AMO.SMAX` (R132). -/
def execAmoSmax (h : Head) (w64 : Bool) (sc : Scope) (d : Dst) (a b : Src) (s : State) : Out :=
  issue (.amoSmax h w64 sc d a b) s
    (amoBody (.amoSmax h w64 sc d a b) h w64 sc d a b (.imm 0) amoSmaxF State.tryLock)

/-- `AMO.UMIN` (R132). -/
def execAmoUmin (h : Head) (w64 : Bool) (sc : Scope) (d : Dst) (a b : Src) (s : State) : Out :=
  issue (.amoUmin h w64 sc d a b) s
    (amoBody (.amoUmin h w64 sc d a b) h w64 sc d a b (.imm 0) amoUminF State.tryLock)

/-- `AMO.UMAX` (R132). -/
def execAmoUmax (h : Head) (w64 : Bool) (sc : Scope) (d : Dst) (a b : Src) (s : State) : Out :=
  issue (.amoUmax h w64 sc d a b) s
    (amoBody (.amoUmax h w64 sc d a b) h w64 sc d a b (.imm 0) amoUmaxF State.tryLock)

/-- `AMO.SWAP` (R132). -/
def execAmoSwap (h : Head) (w64 : Bool) (sc : Scope) (d : Dst) (a b : Src) (s : State) : Out :=
  issue (.amoSwap h w64 sc d a b) s
    (amoBody (.amoSwap h w64 sc d a b) h w64 sc d a b (.imm 0) amoSwapF State.tryLock)

/-- `AMO.CAS` (R132): it writes in either case. -/
def execAmoCas (h : Head) (w64 : Bool) (sc : Scope) (d : Dst) (a b c : Src) (s : State) : Out :=
  issue (.amoCas h w64 sc d a b c) s
    (amoBody (.amoCas h w64 sc d a b c) h w64 sc d a b c amoCasF State.tryLock)

/-- The effect of a waiting `LDL` or scratchpad `AMO` whose lock is free. -/
def lockRun (s : State) : Instr → Res
  | .ldl h sx sz d a b => ldlBody h sx sz d a b (fun _ _ => true) s
  | i@(.amoAdd h w64 sc d a b) => amoBody i h w64 sc d a b (.imm 0) amoSum (fun _ _ => true) s
  | i@(.amoAnd h w64 sc d a b) => amoBody i h w64 sc d a b (.imm 0) amoAndF (fun _ _ => true) s
  | i@(.amoOr h w64 sc d a b) => amoBody i h w64 sc d a b (.imm 0) amoOrF (fun _ _ => true) s
  | i@(.amoXor h w64 sc d a b) => amoBody i h w64 sc d a b (.imm 0) amoXorF (fun _ _ => true) s
  | i@(.amoSmin h w64 sc d a b) => amoBody i h w64 sc d a b (.imm 0) amoSminF (fun _ _ => true) s
  | i@(.amoSmax h w64 sc d a b) => amoBody i h w64 sc d a b (.imm 0) amoSmaxF (fun _ _ => true) s
  | i@(.amoUmin h w64 sc d a b) => amoBody i h w64 sc d a b (.imm 0) amoUminF (fun _ _ => true) s
  | i@(.amoUmax h w64 sc d a b) => amoBody i h w64 sc d a b (.imm 0) amoUmaxF (fun _ _ => true) s
  | i@(.amoSwap h w64 sc d a b) => amoBody i h w64 sc d a b (.imm 0) amoSwapF (fun _ _ => true) s
  | i@(.amoCas h w64 sc d a b c) => amoBody i h w64 sc d a b c amoCasF (fun _ _ => true) s
  | _ => .hold s

/-- A waiting stream obtains its lock in the order of the tries, and its instruction completes (R99). -/
def execLdlLockGrant (core : Nat) (st : Stream) (s : State) : Out :=
  let s := s.on core st
  let q := s.inst.ldlq
  let before := q.takeWhile fun e => e.1 != st
  match q.find? fun e => e.1 == st with
  | none => .next s
  | some e =>
    if s.lockFree st (s.entryLock e) before then
      let s1 := s.setInst { s.inst with ldlq := q.filter fun e => e.1 != st }
      s1.answer e.2.head (postOf e.2.head) (lockRun s1 e.2)
    else .next s

/-- An element write that can be performed: its queue without it, its bytes, whether it releases a lock,
and which entry it stood in. -/
structure Performed where
  eq     : List EqItem
  bytes  : List (Loc × Byte)
  unlock : Bool
  entry  : Nat

/-- The same behind an entry. -/
def Performed.behind (it : EqItem) (p : Performed) : Performed := { p with eq := it :: p.eq, entry := p.entry + 1 }

/-- Performing one element write of a stream's held stores, by its number among them: a release only
when no access stands before it (R105), any other write only after the stream's earlier writes of the
same places (R104). A marker is no access, so none waits for one: DESIGN CHOICE (log 64). -/
def performAt (n : Nat) : List EqItem → List (Loc × Byte) → Bool → Option Performed
  | [], _, _ => none
  | .store r u els :: q, seen, first =>
    if n < els.length then
      let e := els.getD n []
      let old := seen ++ (els.take n).flatten
      if (r && !(first && n == 0)) || e.any (fun p => old.any fun o => o.1 == p.1) then none
      else some ⟨.store r u (els.eraseIdx n) :: q, e, u, 0⟩
    else (performAt (n - els.length) q (seen ++ els.flatten) (first && els.isEmpty)).map
      (Performed.behind (.store r u els))
  | it :: q, seen, first => (performAt n q seen (first && !it.access)).map (Performed.behind it)

/-- A held store write is performed (R113); what waited for it at the head of its queue follows. A damaged one
raises its cause instead (R302). -/
def execStoreWritePerformed (core : Nat) (st : Stream) (idx : Nat) (s : State) : Out :=
  let s := s.on core st
  match performAt idx s.str.eq [] true with
  | none => .next s
  | some p =>
    let k := s.str.eqDone + p.entry
    match s.inst.sound [.held st k] with
    | .error t => if s.inst.phase.live then .next (s.raise st t) else .next s
    | .ok _ => .next (((s.setStr { s.str with eq := p.eq }).performEl st k p.unlock p.bytes).settle st)

/-- `PREF` (R134): it changes no state. -/
def execPref (h : Head) (a b : Src) (s : State) : Out := issue (.pref h a b) s .done

/-- R110: what a `FENCE` of a scope waits for: every earlier access performed, which it then is at every
scope (log 10); with stream scope only the stream's own operations. -/
def StreamSt.fenced (x : StreamSt) (sc : Scope) : Bool := x.performed || (sc == .stream && x.cmds == 0)

/-- `FENCE` (R110, R145). -/
def execFence (h : Head) (sc : Scope) (s : State) : Out :=
  issue (.fence h sc) s fun s => if s.str.fenced sc then .done s else .hold s

/-- The streams a `FENCE.X` mask names (R146). -/
def maskStreams (m : BitVec 5) : List Stream :=
  ([(.L, 0), (.M, 1), (.V, 2), (.S, 3)] : List (Stream × Nat)).filterMap fun (t, k) =>
    if m.getLsbD k then some t else none

/-- `FENCE.X` (R114, R146): markers into the named queues, and a stall at the join slot. What a copy
of this stream must see from now on are the writes made so far (log 13). -/
def execFenceX (h : Head) (mask : BitVec 5) (s : State) : Out :=
  issue (.fenceX h mask) s fun s =>
    if mask = 0 then .done s
    else
      let me := s.stream
      let q := maskStreams mask
      let i := q.foldl (fun (i : Inst) t =>
        let i := i.modStr t fun x => { x with eq := x.eq ++ [.marker me] }
        { i with joins := i.joins.set 0 (5 * me.num + t.num) i.lagN }) s.inst
      let ids := if mask.getLsbD 4 then (i.shq ++ i.copies).map (·.id) else []
      .hold (s.setInst (i.modStr me fun x => { x with join := some h, joinShq := ids }))

/-- The markers of a stream's `FENCE.X` have reached the heads of their queues (R114). A marker at its head
stays there, and what stands behind it waits, until all of them have; a post does not (log 64). -/
def Inst.joined (i : Inst) (st : Stream) : Bool :=
  [Stream.L, .M, .V, .S].all (fun t =>
    let q := (i.streams.get t).eq
    !q.contains (.marker st) || q.head? == some (.marker st)) &&
    !(i.shq ++ i.copies).any fun c => (i.streams.get st).joinShq.contains c.id

/-- A `FENCE.X` completes (R114): its markers leave, and it posts. -/
def execFenceXJoin (core : Nat) (st : Stream) (s : State) : Out :=
  let s := s.on core st
  match s.str.join with
  | none => .next s
  | some h =>
    if s.inst.phase.live && s.inst.joined st then
      let s := s.setInst (s.inst.dropMarkers st)
      let s := s.setStr { s.str with join := none, joinShq := [] }
      let s := [Stream.L, .M, .V, .S].foldl State.settle s
      .next (if s.inst.phase.live then s.complete (s.str.pc + .ofNat 64 h.len) (postOf h) else s)
    else .next s

end Sys2Proof.Machine
end

