-- ==== Sys2Proof/Machine/Tbar.lean ====
section
/-! DEFINITION. Transaction barriers (R173 to R177) in the scratchpad of any instance, a pre-empted victim
included (R298). -/

namespace Sys2Proof.Machine

/-- The instance with a model number on a core. -/
def State.instOf (s : State) (core uid : Nat) : Option Inst :=
  let c := s.coreAt core
  match c.main, c.pre with
  | some m, p => if m.uid = uid then some m else p.filter (·.uid == uid)
  | none, p => p.filter (·.uid == uid)

/-- Replacing the instance with a model number on a core. -/
def State.putInst (s : State) (core uid : Nat) (i : Inst) : State :=
  let c := s.coreAt core
  let f (x : Inst) : Inst := if x.uid = uid then i else x
  s.setCore core { c with main := c.main.map f, pre := c.pre.map f }

/-- Bytes of an instance's scratchpad, each where it lies now: in its saved unit once that has been
claimed (R298). -/
def State.spadGet (s : State) (core : Nat) (i : Inst) (off n : Nat) : List Byte :=
  (List.range n).map fun k =>
    if i.saved.contains (.spad ((off + k) / 4096)) then
      SMap.get 0 s.mem ((s.coreAt core).ctx + 0x080000 + off + k)
    else i.store.spad.get 0 (off + k)

/-- Bytes written there by the hardware or by a copy. -/
def State.spadPut (s : State) (core uid off : Nat) (b : List Byte) : Except Fault State :=
  b.zipIdx.foldlM (fun (s : State) (x, k) =>
    match s.instOf core uid with
    | none => .ok s
    | some i =>
      if i.saved.contains (.spad ((off + k) / 4096)) then
        s.devWrite ((s.coreAt core).ctx + 0x080000 + off + k) [x]
      else
        let l : Loc := .spad (off + k)
        let s := s.putInst core uid (i.poke l x)
        .ok { s with lag := s.lag.map fun e => if e.core = core ∧ e.uid = uid then Lag.put l x e else e }) s

/-- A tbar (R173). -/
structure Tb where
  sectors  : Nat
  arrivals : Nat
  next     : Nat
  late     : Bool
  armed    : Bool
  nudge    : Bool
  ord      : Bool
  phase    : Nat
  deriving DecidableEq, Repr

/-- R173: a tbar from its 16 bytes. -/
def Tb.of (b : List Byte) : Tb :=
  let x := ofBytes b
  ⟨bits x 64 64, bits x 32 32, bits x 8 24, bits x 7 1 == 1, bits x 6 1 == 1, bits x 5 1 == 1,
    bits x 4 1 == 1, bits x 0 4⟩

/-- Its 16 bytes. -/
def Tb.bytes (t : Tb) : List Byte :=
  toBytes 16 (t.sectors * 2 ^ 64 + t.arrivals % 2 ^ 32 * 2 ^ 32 + t.next % 2 ^ 24 * 2 ^ 8
    + bit t.late * 128 + bit t.armed * 64 + bit t.nudge * 32 + bit t.ord * 16 + t.phase % 16)

/-- R175: an armed tbar both of whose counts are zero advances. -/
def Tb.settle (t : Tb) : Tb :=
  if t.armed && t.arrivals == 0 && t.sectors == 0 then
    { t with armed := false, phase := (t.phase + 1) % 16 }
  else t

/-- R174, R175, R230: one arrival and `n` sectors, with the arrival index of an ordered one. -/
def Tb.arrive (t : Tb) (n : Nat) (index : Option Nat) : Tb :=
  if !t.armed then { t with late := true }
  else
    let t := match index with
      | none => t
      | some k =>
        if t.ord && t.next == k then { t with next := (k + 1) % 2 ^ 24 } else { t with late := true }
    let late := t.late || t.arrivals == 0 || t.sectors < n
    { t with arrivals := t.arrivals - 1, sectors := t.sectors - n, late := late }.settle

/-- A tbar as it stands in an instance's scratchpad. -/
def State.tbGet (s : State) (core : Nat) (i : Inst) (off : Nat) : Tb := .of (s.spadGet core i off 16)

/-- A tbar updated as a whole record: the set of armed tbars follows, and an advance with NUDGE sets
TBP of its instance (R175, R177). -/
def State.tbPut (s : State) (core uid off : Nat) (old new : Tb) : Except Fault State := do
  let s ← s.spadPut core uid off new.bytes
  match s.instOf core uid with
  | none => .ok s
  | some i =>
    let set := i.tbars.filter (· != off)
    let i := { i with tbars := if new.armed then set ++ [off] else set,
                      tbp := i.tbp || (old.armed && !new.armed && old.nudge) }
    .ok (s.putInst core uid i)

/-- The offset of a tbar operand of the executing core (R152, R17). -/
def State.tbAddr (s : State) (a : Word) : T Nat :=
  match place a.toNat with
  | .local_ o => do
    need (o % 16 == 0) .align a
    need (o + 16 ≤ s.inst.spadLen) .access a
    s.inst.soundAt localBase ((List.range 16).map fun k => .spad (o + k))
    .ok o
  | _ => raiseT .access a

end Sys2Proof.Machine
end

