-- ==== Sys2Proof/Machine/Movement.lean ====
section
/-! DEFINITION. Furrow, window and shuttle instructions at issue: R213 to R219, R221, R222, R224, R226 to
R229, R231. -/

namespace Sys2Proof.Machine

/-- The address of a furrow image (R213). -/
def State.imageAt (s : State) (acc : Acc) (a : Nat) : T (List Loc) := do
  need (a % 16 == 0) .align (.ofNat 64 a)
  s.at_ acc a 128

/-- A furrow slot of the executing instance. -/
def Inst.furrow (i : Inst) (f : Nat) : Fur := i.store.fur.get 0 f

/-- Writing a furrow slot. -/
def Inst.setFurrow (i : Inst) (f : Nat) (v : Fur) : Inst :=
  { i with store := { i.store with fur := i.store.fur.set 0 f v } }.mend (.fur f)

/-- `FLD` (R213). -/
def execFld (h : Head) (f : Fin 64) (a b : Src) (s : State) : Out :=
  issue (.fld h f a b) s fun s =>
    let ad := s.addr h a b
    .try_ s (s.imageAt .read ad) fun l =>
      afterQueue s l
        (.done (s.setInst (s.inst.setFurrow f (.ofNat 1024 (s.loadVal s.stream l)))))

/-- Lists cut into words of eight. -/
def words8 {α : Type} (l : List α) : List (List α) :=
  (List.range (l.length / 8)).map fun k => (l.drop (8 * k)).take 8

/-- `FST` (R213). -/
def execFst (h : Head) (a b : Src) (f : Fin 64) (s : State) : Out :=
  issue (.fst h a b f) s fun s =>
    let ad := s.addr h a b
    .try_ s (s.imageAt .write ad) fun l =>
      afterQueue s l
        (s.store false false (words8 (l.zip (toBytes 128 (s.inst.furrow f).toNat))))

/-- Where a field of a furrow lies (R208, R209, R214): lowest bit and width. -/
def FField.at_ : FField → Nat × Nat
  | .bound k => (16 * k, 16)
  | .base w => (128 + 256 * w, 64)
  | .stride w k => (192 + 256 * w + 32 * k, 32)
  | .target w => (101 + 8 * w, 3)
  | .attr w => (96 + 8 * w, 8)
  | .oper => (120, 8)
  | .bmax k => (896 + 16 * k, 16)
  | .wmask => (992, 8)
  | .patchen => (1000, 12)

/-- A field of a furrow replaced. -/
def putField (f : Fur) (fd : FField) (v : Int) : Fur :=
  let (lo, n) := FField.at_ fd
  .ofNat 1024 (putBits f.toNat lo n (v % 2 ^ n).toNat)

/-- R215: a value that `FSET` may write. -/
def setOk (fd : FField) (v : Int) : Bool :=
  match fd with
  | .base _ => true
  | .stride _ _ => -2 ^ 31 ≤ v && v < 2 ^ 31
  | _ => 0 ≤ v && v < 2 ^ (FField.at_ fd).2

/-- R215: a base in the range of its window's kind. -/
def baseOk (k : WKind) (v : Int) : Bool :=
  let below (n : Nat) := 0 ≤ v && v < n
  match k with
  | .unused => false
  | .global => canonical (v % 2 ^ 64).toNat
  | .local_ => below 0x00180000
  | .acc => below 0x00300000
  | .granary => below 0x20000000
  | _ => below (2 ^ 32)

/-- R215: a value that the patch guard of a slot permits. -/
def patchOk (f : Fur) (fd : FField) (v : Int) : Bool :=
  let en (b : Nat) := bits (fPatchen f) b 1 == 1
  match fd with
  | .bound k => en k && 0 ≤ v && v ≤ fBmax f k
  | .base w => en (6 + w) && baseOk (fKind f w) v
  | .target w => en (9 + w) && 0 ≤ v && v ≤ 7 && bits (fWmask f) v.toNat 1 == 1
  | _ => false

/-- A checked write of a field (R215). -/
def State.patch (s : State) (f : Fin 64) (fd : FField) (ok : Bool) (v : Word) : Res :=
  if ok then .done (s.setInst (s.inst.setFurrow f (putField (s.inst.furrow f) fd v.toInt)))
  else .trap ⟨.patchRange, v⟩ s

/-- `FSET` (R214, R215). -/
def execFset (h : Head) (fd : FField) (f : Fin 64) (a : Src) (s : State) : Out :=
  issue (.fset h fd f a) s fun s =>
    let v := s.val h .i64 a
    s.patch f fd (setOk fd v.toInt) v

/-- `FPATCH` (R214, R215). -/
def execFpatch (h : Head) (fd : FField) (f : Fin 64) (a : Src) (s : State) : Out :=
  issue (.fpatch h fd f a) s fun s =>
    let v := s.val h .i64 a
    s.patch f fd (patchOk (s.inst.furrow f) fd v.toInt) v

/-- `FPATCH` from scratchpad (R214, R215). -/
def execFpatchMem (h : Head) (fd : FField) (f : Fin 64) (a b : Src) (s : State) : Out :=
  issue (.fpatchMem h fd f a b) s fun s =>
    let ad := s.addr h a b
    .try_ s (do localOnly ad 8; s.at_ .read ad 8) fun l =>
      afterQueue s l (
        let v : Word := .ofNat 64 (s.loadVal s.stream l)
        s.patch f fd (patchOk (s.inst.furrow f) fd v.toInt) v)

/-- A valid export of a module (R313, R320); of another module only while it is not fenced (R321). -/
def State.exportOf (s : State) (module n : Nat) : Option ExportEnt :=
  let e := if module = s.moduleNo then s.exports.get none n
    else
      let p := s.peers.get {} module
      if p.fenced then none else p.exports.get none n
  e.filter (·.valid)

/-- R320: what is asked of a module's exports can be answered: this one's, those of one that is fenced,
whose exports are known to be gone, or that has made none known, and another's while some port is up; routing
is not architectural (log 57). -/
def State.reached (s : State) (module : Nat) : Bool :=
  let p := s.peers.get {} module
  module == s.moduleNo || p.fenced || p.exports.isEmpty || s.ports.any fun (_, p) => p.up

/-- The module that a target descriptor names an export of (R217). -/
def exportModule (t : Word) : Option Nat :=
  if fld t 26 36 == 0 && !flag t 63 && flag t 62 then some (fld t 16 10) else none

/-- An export admits an address space (R313). -/
def admits (e : ExportEnt) (asid : BitVec 16) : Bool :=
  match e.asids with
  | none => true
  | some l => l.contains asid.toNat

/-- R217: the binding of a target descriptor; none raises `REMOTE`. -/
def State.bind_ (s : State) (t : Word) (base len : Nat) : Option RTarget :=
  if fld t 26 36 != 0 || flag t 63 then none
  else if flag t 62 then
    let m := fld t 16 10
    let n := fld t 0 16
    match s.exportOf m n with
    | some e =>
      if admits e s.inst.launch.asid && base + len ≤ e.length then some (.export_ m n) else none
    | none => none
  else if fld t 10 16 != 0 then none
  else
    let n := fld t 0 10
    match (s.coreAt n).main with
    | some i =>
      if n < 768 && i.phase != .starting && base + len ≤ i.spadLen then some (.core n i.uid) else none
    | none => none

/-- `WINSET` (R217). It stalls while the module of the export it checks cannot be reached. -/
def execWinset (h : Head) (w : Fin 8) (a b c : Src) (s : State) : Out :=
  issue (.winset h w a b c) s fun s =>
    let t := s.val h .n64 a
    let base := (s.val h .n64 b).toNat
    let len := (s.val h .n64 c).toNat
    let put (x : Option Window) : Res := .done (s.setInst { s.inst with win := s.inst.win.set none w x })
    if len = 0 then put none
    else if (exportModule t).any fun m => !s.reached m then .hold s
    else match s.bind_ t base len with
      | some r => put (some ⟨r, base, len⟩)
      | none => .trap ⟨.remote, t⟩ s

/-- R218: the status of a window. WRITABLE is 0 where the export that it was bound to is gone or its module is
fenced (DESIGN CHOICE, log 74). -/
def State.winStat (s : State) (x : Option Window) : Nat :=
  match x with
  | none => 0
  | some x =>
    let (ex, wr) := match x.tgt with
      | .core _ _ => (false, true)
      | .export_ m n => (true, ((s.exportOf m n).map (·.writable)).getD false)
    2 ^ 63 + bit ex * 2 ^ 62 + bit wr * 2 ^ 61 + x.len % 2 ^ 48

/-- `WINQ` (R218). -/
def execWinq (h : Head) (d : Dst) (w : Fin 8) (sel : Bool) (s : State) : Out :=
  issue (.winq h d w sel) s fun s =>
    let x := s.inst.win.get none w
    .done (s.result d (.ofNat 64 (if sel then (x.map (·.base)).getD 0 else s.winStat x)))

/-- R210: kinds that may stand as source and as destination of an `FGO` in L, in S, or of a `CPY`. -/
def roleOk (st : Option Stream) (dst : Bool) (k : WKind) : Bool :=
  match st, dst, k with
  | _, _, .unused => false
  | some .L, false, k => k != .remote
  | some .L, true, k => k == .local_ || k == .acc || k.isRing
  | some _, false, k => k == .local_ || k == .acc || k.isRing
  | some _, true, k => k == .global || k == .local_ || k.isRing
  | none, false, _ => true
  | none, true, k => k != .granary

/-- R209: the kinds that use TARGET. -/
def WKind.targets (k : WKind) : Bool := k.isRing || k == .remote

/-- Reducing modes. -/
def CopyMode.reduces : CopyMode → Bool
  | .reduce | .ordered => true
  | _ => false

/-- R209 ROP and RTYPE of OPER. -/
def ropOf (f : Fur) : Nat := fOper f / 4 % 4
@[inherit_doc ropOf] def rtypeOf (f : Fur) : Nat := fOper f % 4

/-- R212, R228, R229: the checks of a snapshot at issue, in the order of the table of R212. `slot` is
the FADDR of most of them. That the first window of a decode may be of no other kind than GLOBAL, LOCAL or
GRANARY is told at issue, by `ACCESS` with the slot: DESIGN CHOICE (log 28). -/
def Inst.furOk (i : Inst) (st : Option Stream) (mode : CopyMode) (f : Fur) (slot : Nat) : T Unit := do
  let k := fKind f
  let no (p : Bool) : T Unit := need p .access (.ofNat 64 slot)
  no (fKind f 2 == .unused && roleOk st false (k 0) && roleOk st true (k 1))
  no (mode != .decode || k 0 == .global || k 0 == .local_ || k 0 == .granary)
  no (mode == .decode || fSize f 0 == fSize f 1)
  no (!fReserved f && fOper f / 16 == 0 && (mode.reduces || fOper f == 0) && ropOf f != 3)
  no ([0, 1, 2].all fun w => (k w).targets || fTarget f w == 0)
  no ([0, 1].all fun w => !(k w).isRing || fTarget f w < i.rings.length)
  [0, 1].forM fun w =>
    need (k w != .remote || (i.win.get none (fTarget f w)).isSome) .remote (.ofNat 64 (fTarget f w))
  no (!mode.reduces || ((k 1 == .local_ || (k 1).isRing || k 1 == .global || k 1 == .remote) &&
    fSize f 0 == (if rtypeOf f < 2 then 4 else 2)))

/-- An axis of an unfold (R227). -/
structure Axis where
  extent : Nat
  pad    : Nat
  dil    : Nat
  scale  : Nat
  inner  : Nat
  outer  : Nat
  deriving DecidableEq, Repr

/-- R227: an axis from its 32 bits. -/
def Axis.of (x : Nat) : Axis := ⟨bits x 18 14, bits x 14 4, bits x 10 4, bits x 6 4, bits x 3 3, bits x 0 3⟩

/-- R227: a disabled axis, or one that may stand. -/
def Axis.ok (x : Axis) : Bool :=
  x.extent == 0 || (x.outer != x.inner && x.outer ≤ 5 && x.inner ≤ 5 && x.dil != 0 && x.scale != 0)

/-- The axes of an unfold parameter (R227). -/
def axes (p : Word) : List Axis := [Axis.of (fld p 0 32), Axis.of (fld p 32 32)]

/-- R227, R228: the check of a mode's parameter at issue. -/
def paramOk (mode : CopyMode) (p : Word) : T Unit :=
  match mode with
  | .unfold => need ((axes p).all Axis.ok) .access p
  | .decode => need (p != 0 && p.toNat < 256) .access p
  | _ => .ok ()

/-- R216, R217, R18: what each window of a snapshot resolves to. -/
def Inst.resolve (i : Inst) (f : Fur) : List WinRes :=
  [0, 1, 2].map fun w =>
    match fKind f w with
    | .ringp => ring w (·.prod)
    | .ringc => ring w (·.cons)
    | .remote => match i.win.get none (fTarget f w) with
      | some x => .remote x
      | none => .plain
    | _ => .plain
where ring (w : Nat) (cur : Ring → Nat) : WinRes :=
  match i.rings[fTarget f w]? with
  | some r => .ring (r.base + cur r * r.slot) r.slot
  | none => .plain

/-- R224: the core and instance that hold the tbar a copy names, and its offset; none without one. -/
def State.copyTbar (s : State) (wins : List WinRes) (t : Word) : Option (Nat × Nat × Nat) :=
  match place t.toNat with
  | .local_ o => some (s.core, s.inst.uid, o)
  | _ =>
    match fld t 56 8 == 0x41 && fld t 21 35 == 0, wins.getD 1 .plain with
    | true, .remote ⟨.core n u, _, _⟩ => some (n, u, fld t 0 21)
    | _, _ => none

/-- R224: the check of a tbar operand at issue. Of an instance that is gone nothing more is known
than the largest scratchpad. -/
def State.tbarOk (s : State) (wins : List WinRes) (t : Word) : T Unit :=
  if t = 0 then .ok ()
  else match s.copyTbar wins t with
    | some (n, u, o) =>
      let len := ((s.instOf n u).map Inst.spadLen).getD 0x180000
      need (o % 16 == 0 && o < len) .access t
    | none => raiseT .access t

/-- R224: an ordered reduce has a tbar and a destination in some scratchpad. -/
def orderedOk (mode : CopyMode) (f : Fur) (wins : List WinRes) (t : Word) (slot : Nat) : T Unit :=
  if mode != .ordered then .ok ()
  else do
    need (t != 0) .access t
    need (fKind f 1 == .local_ || (fKind f 1).isRing || match wins.getD 1 .plain with
      | .remote ⟨.core _ _, _, _⟩ => true
      | _ => false) .access (.ofNat 64 slot)

/-- R114: for each stream, the number of the last of its writes that a copy issued now must see. -/
def State.joinedNow (s : State) : List Nat :=
  [Stream.C, .L, .M, .V, .S].map fun t =>
    if t = s.stream then s.inst.lagN else s.inst.joins.get 0 (5 * s.stream.num + t.num)

/-- The command an instruction of the executing stream makes (R216, R219, R222, R233). Its snapshot holds
every slot write that stands before it in the agenda, and no later one: DESIGN CHOICE (log 72). -/
def State.command (s : State) (i : Instr) (op : CmdOp) (vals : List Word) (f : Fur)
    (wins : List WinRes) : Cmd :=
  { id := s.inst.nextCmd, st := s.stream, instr := i, head := i.head, op := op, vals := vals,
    tag := s.str.tag, snap := f, wins := wins, cbpol := s.str.cbpol, shpol := s.str.shpol,
    started := false, written := [], prog := {}, joined := s.joinedNow,
    after := s.str.eqDone + s.str.eq.length }

/-- The instance after a command was made: a granary window holds the granary (R91). -/
def Inst.afterCmd (i : Inst) (f : Fur) : Inst :=
  { i with nextCmd := i.nextCmd + 1, gran := i.gran || fKind f 0 == .granary || fKind f 1 == .granary }

/-- A command placed at the end of its stream's engine queue (R113). -/
def State.enqueue (s : State) (c : Cmd) (f : Fur) : State :=
  s.setInst ((s.inst.afterCmd f).modStr s.stream fun x => { x with eq := x.eq ++ [.cmd c] })

/-- `FGO` in any mode (R219). -/
def fgoBody (i : Instr) (mode : CopyMode) (f : Fin 64) (p : Word) (s : State) : Res :=
  let n := s.inst
  let fur := n.furrow f
  .try_ s (do n.furOk (some s.stream) mode fur f; paramOk mode p) fun _ =>
    if 16 ≤ s.str.cmds then .hold s
    else .done (s.enqueue (s.command i (.fgo mode p) [.ofNat 64 f.val, p, 0, 0] fur (n.resolve fur)) fur)

/-- `FGO` (R219). -/
def execFgo (h : Head) (f : Fin 64) (s : State) : Out :=
  issueCmd (.fgo h f) s (fgoBody (.fgo h f) .plain f 0)

/-- `FGO.UNF` (R219, R227). -/
def execFgoUnf (h : Head) (f : Fin 64) (p : Src) (s : State) : Out :=
  issueCmd (.fgoUnf h f p) s fun s => fgoBody (.fgoUnf h f p) .unfold f (s.val h .i64 p) s

/-- `FGO.DEC` (R219, R228). -/
def execFgoDec (h : Head) (f : Fin 64) (p : Src) (s : State) : Out :=
  issueCmd (.fgoDec h f p) s fun s => fgoBody (.fgoDec h f p) .decode f (s.val h .i64 p) s

/-- `CPY` in any mode (R222, R226): into the shuttle queue, or the time-sorted buffer while its time
is to come. Of several checks that fail the first counts, in the order snapshot, parameter, ordered reduce,
tbar operand: DESIGN CHOICE (log 28). -/
def cpyBody (i : Instr) (mode : CopyMode) (at_ : Option (Fin 32)) (f : Fin 64) (t p : Word)
    (s : State) : Res :=
  let n := s.inst
  let fur := n.furrow f
  let wins := n.resolve fur
  .try_ s (do
    n.furOk none mode fur f
    paramOk mode p
    orderedOk mode fur wins t f
    s.tbarOk wins t) fun _ =>
    let time := at_.map fun k => n.g s.stream k
    let c := s.command i (.cpy mode t p time) [.ofNat 64 f.val, t, p, time.getD 0] fur wins
    let later : Bool := match time with
      | some x => decide (s.mtime.toNat < x.toNat)
      | none => false
    let n := n.afterCmd fur
    if later then
      if 32 ≤ n.timed.length then .hold s else .done (s.setInst { n with timed := n.timed ++ [c] })
    else if 64 ≤ n.shq.length then .hold s
    else .done (s.setInst { n with shq := n.shq ++ [c] })

/-- `CPY` (R221, R222). -/
def execCpy (h : Head) (at_ : Option (Fin 32)) (f : Fin 64) (t : Src) (s : State) : Out :=
  issueCmd (.cpy h at_ f t) s fun s => cpyBody (.cpy h at_ f t) .plain at_ f (s.val h .i64 t) 0 s

/-- `CPY.UNF` (R221, R227). -/
def execCpyUnf (h : Head) (at_ : Option (Fin 32)) (f : Fin 64) (t p : Src) (s : State) : Out :=
  issueCmd (.cpyUnf h at_ f t p) s fun s =>
    cpyBody (.cpyUnf h at_ f t p) .unfold at_ f (s.val h .i64 t) (s.val h .i64 p) s

/-- `CPY.DEC` (R221, R228). -/
def execCpyDec (h : Head) (at_ : Option (Fin 32)) (f : Fin 64) (t p : Src) (s : State) : Out :=
  issueCmd (.cpyDec h at_ f t p) s fun s =>
    cpyBody (.cpyDec h at_ f t p) .decode at_ f (s.val h .i64 t) (s.val h .i64 p) s

/-- `CPY.RED` (R221, R229). -/
def execCpyRed (h : Head) (at_ : Option (Fin 32)) (f : Fin 64) (t : Src) (s : State) : Out :=
  issueCmd (.cpyRed h at_ f t) s fun s =>
    cpyBody (.cpyRed h at_ f t) .reduce at_ f (s.val h .i64 t) 0 s

/-- `CPY.ORED` (R221, R229, R230). -/
def execCpyOred (h : Head) (at_ : Option (Fin 32)) (f : Fin 64) (t p : Src) (s : State) : Out :=
  issueCmd (.cpyOred h at_ f t p) s fun s =>
    cpyBody (.cpyOred h at_ f t p) .ordered at_ f (s.val h .i64 t) (s.val h .i64 p) s

/-- `CPYQ` (R231). -/
def execCpyq (h : Head) (d : Dst) (a : Src) (s : State) : Out :=
  issue (.cpyq h d a) s fun s =>
    let tag : BitVec 6 := (s.val h .i64 a).setWidth 6
    let i := s.inst
    let tagged := ((i.shq ++ i.timed).filter (·.tag == tag)).length
    .done (s.result d (.ofNat 64 (tagged * 2 ^ 32 + i.timed.length * 2 ^ 16 + i.copies.length * 2 ^ 8 +
      i.shq.length)))

end Sys2Proof.Machine
end

