-- ==== Sys2Proof/Machine/Sync.lean ====
section
/-! DEFINITION. Semaphores, tags, `QDROP`, work-queue and transaction-barrier instructions (R152 to R155,
R158, R159, R164, R165, R167, R168, R176), and the grant of a wait (R12). -/

namespace Sys2Proof.Machine

/-- A semaphore amount (R152). -/
def State.amount (s : State) (h : Head) (b : Src) : T Nat :=
  let v := (s.val h .n64 b).toNat
  if 65535 < v then raiseT .semOvf (.ofNat 64 (v % 2 ^ 63)) else .ok v

/-- `SEMWAIT` (R154): its own wait follows the wait of its wait field. -/
def execSemwait (h : Head) (n : Fin 32) (b : Src) (s : State) : Out :=
  issue (.semwait h n b) s fun s =>
    .try_ s (s.amount h b) fun k =>
      match s.acquire (if h.wamt = 0 then 0 else 1) n k with
      | .error t => .trap t s
      | .ok (some s) => .done s
      | .ok none => .hold (s.enlist (.instr s.stream) n k)

/-- `SEMPOST` (R154): its own addition, then its post field. -/
def execSempost (h : Head) (n : Fin 32) (b : Src) (s : State) : Out :=
  issue (.sempost h n b) s fun s =>
    .try_ s (s.amount h b) fun k => .posts ((if k = 0 then [] else [(n, k)]) ++ postOf h) s

/-- A release waits until its stream's earlier accesses are performed (R105). -/
def released (s : State) (r : Res) : Res := if s.str.performed then r else .hold s

/-- `SEMSET` (R154): the old count is the result; ring cursors stay (R18). A post of its own on the same
semaphore is made after it: DESIGN CHOICE (log 71). -/
def execSemset (h : Head) (d : Dst) (n : Fin 32) (b : Src) (s : State) : Out :=
  issue (.semset h d n b) s fun s =>
    .try_ s (s.amount h b) fun v =>
      released s (.done ((s.setInst (s.inst.setSem n v)).result d (.ofNat 64 (s.inst.semOf n))))

/-- `SEMRD` (R154). -/
def execSemrd (h : Head) (d : Dst) (n : Fin 32) (s : State) : Out :=
  issue (.semrd h d n) s fun s => .done (s.result d (.ofNat 64 (s.inst.semOf n)))

/-- R253: the parameter block that a `DRAIN` reads as it starts. -/
def Inst.blockOf (i : Inst) (c : Cmd) : Nat :=
  match c.op with
  | .drain _ _ _ _ _ par => match place par.toNat with
    | .local_ o => ofBytes (SMap.getList 0 i.store.spad o 528)
    | _ => 0
  | _ => 0

/-- R104: a command about to start touches what M has accessed behind it (log 21). -/
def State.overtaken (s : State) (c : Cmd) : Bool :=
  c.passed.any (s.touches { c with started := true, block := s.inst.blockOf c })

/-- The first command of a queue. -/
def firstCmd (q : List EqItem) : Option Cmd :=
  q.findSome? fun | .cmd c => some c | _ => none

/-- The first unstarted command of an engine queue marked as started. -/
def startHead (i : Inst) : List EqItem → List EqItem
  | .cmd c :: t => .cmd { c with started := true, block := i.blockOf c, shared := none } :: t
  | it :: t => it :: startHead i t
  | [] => []

/-- What a granted wait starts (R12). -/
def Inst.granted (i : Inst) (n : Fin 32) (amt : Nat) : Waiter → Inst
  | .instr st => i.modStr st fun x => { x with got := x.got ++ [(n, amt)] }
  | .queue st => i.modStr st fun x => { x with eq := startHead i x.eq }
  | .shuttle => match i.shq with
    | c :: t => { i with shq := t, copies := i.copies ++ [{ c with started := true }] }
    | [] => i

/-- The stream of a waiter: a queued command's is the stream that issued it (R12). -/
def Inst.waiterStream (i : Inst) : Waiter → Stream
  | .instr st | .queue st => st
  | .shuttle => (i.shq.head?.map (·.st)).getD .C

/-- R12: the earliest waiter of a semaphore is granted its wait once the count suffices; it reads the count
(R302). -/
def execWaitGrant (core : Nat) (n : Fin 32) (s : State) : Out :=
  let s := s.on core s.stream
  let i := s.inst
  match i.waits.find? fun w => w.2.1 == n with
  | none => .next s
  | some (w, _, amt) =>
    if !i.phase.live then .next s
    else match i.sound [.sem n] with
    | .error t => .next (s.raise (i.waiterStream w) t)
    | .ok _ =>
      let late := match w with
        | .queue st => (firstCmd (i.streams.get st).eq).any s.overtaken
        | _ => false
      if amt ≤ i.semOf n && !late then
        let i := { i.setSem n (i.semOf n - amt) with waits := i.waits.erase (w, n, amt) }
        .next (s.setInst (i.granted n amt w))
      else .next s

/-- `TAGSET` (R158). -/
def execTagset (h : Head) (d : Dst) (a : Src) (s : State) : Out :=
  issue (.tagset h d a) s fun s =>
    let old := s.str.tag
    let s := s.setStr { s.str with tag := (s.val h .n64 a).setWidth 6 }
    .done (s.result d (old.setWidth 64))

/-- R159, R233: a command `QDROP` discards. -/
def Cmd.dropped (c : Cmd) (tag : BitVec 6) : Bool :=
  c.tag == tag && !c.started && match c.op with
    | .lsync | .cbq _ _ => false
    | _ => true

/-- The stream whose engine queue a `QDROP` names. -/
def dropStream : DropQ → Option Stream
  | .L => some .L | .M => some .M | .V => some .V | .S => some .S | .shuttle => none

/-- `QDROP` (R159): how many commands were discarded. -/
def execQdrop (h : Head) (q : DropQ) (d : Dst) (a : Src) (s : State) : Out :=
  issue (.qdrop h q d a) s fun s =>
    let tag : BitVec 6 := (s.val h .n64 a).setWidth 6
    let i := s.inst
    match dropStream q with
    | none =>
      let gone (c : Cmd) := c.dropped tag
      let n := ((i.shq ++ i.timed).filter gone).length
      let waits := if (i.shq.head?.map gone).getD false then
        i.waits.filter (fun w => w.1 != .shuttle) else i.waits
      let keep (l : List Cmd) := l.filter fun c => !gone c
      .done ((s.setInst { i with shq := keep i.shq, timed := keep i.timed, waits := waits }).result d
        (.ofNat 64 n))
    | some t =>
      let eq := (i.streams.get t).eq
      let gone : EqItem → Bool
        | .cmd c => c.dropped tag
        | _ => false
      let n := (eq.filter gone).length
      let waits := if ((firstCmd eq).map (·.dropped tag)).getD false then
        i.waits.filter (fun w => w.1 != .queue t) else i.waits
      let i := { i with waits := waits }.modStr t fun x =>
        { x with eq := x.eq.map fun it => if gone it then .gone else it }
      let pc := s.str.pc + .ofNat 64 h.len
      let s := ((s.setInst i).result d (.ofNat 64 n)).complete pc (postOf h)
      .hold (if s.inst.phase.live then s.settle t else s)

/-- R152: a queue operand of the executing core's die. -/
def State.queueOpd (s : State) (h : Head) (a : Src) : T Nat := do
  let n := s.val h .n64 a
  need (n.toNat < 2048) .access n
  let q := s.wqAt (dieOf s.core) n.toNat
  need (s.inst.launch.priv || q.state == .free || q.asid == s.inst.launch.asid) .access n
  .ok n.toNat

/-- R289: a wrong queue state. -/
def queueBad {α : Type} (n : Nat) : T α := raiseT .queueState (.ofNat 64 n)

/-- R152: a record or descriptor address, and the places of its 64 bytes. -/
def State.recordAt (s : State) (acc : Acc) (h : Head) (b : Src) : T (Nat × List Loc) := do
  let a := s.val h .i64 b
  need (a.toNat % 64 == 0) .align a
  .ok (a.toNat, ← s.at_ acc a.toNat 64)

/-- The instance has made an effect that re-execution would repeat (R293). -/
def State.external (s : State) : State := s.setInst { s.inst with external := true }

/-- A queue that takes reservations (R165). -/
def State.openQueue (s : State) (n : Nat) : T WQ :=
  let q := s.wqAt (dieOf s.core) n
  if q.state == .free || q.ringparse then queueBad n else .ok q

/-- R285: a queue with one more reservation, by a stream of a core; none in a cycle in which that core's later
stream has had its ticket. A nanosecond has two cycles, and one stream's reservations may share one
(DESIGN CHOICE, log 9). -/
def WQ.reserve (q : WQ) (now : Word) (core uid : Nat) (st : Stream) : Option WQ :=
  let take (second : Bool) : Option WQ :=
    some { q with ents := q.ents ++ [.resv uid 0], took := q.took.set none core (some ⟨now, second, st⟩) }
  match q.took.get none core with
  | some t =>
    if t.time != now then take false
    else if streams.idxOf t.st ≤ streams.idxOf st then take t.second
    else if t.second then none else take true
  | none => take false

/-- `WQRSV` (R165), in its core's order of one cycle (R285). -/
def execWqrsv (h : Head) (d : Dst) (a : Src) (s : State) : Out :=
  issue (.wqrsv h d a) s fun s =>
    .try_ s (do let n ← s.queueOpd h a; .ok (n, ← s.openQueue n)) fun (n, q) =>
      if q.full then .done (s.result d (qStatus true false 0))
      else match q.reserve s.mtime s.core s.inst.uid s.stream with
        | none => .hold s
        | some q' => .done ((s.external.putQueue (dieOf s.core) n q').result d (qStatus false false q.next))

/-- `WQPUSH` (R165): a release at `.mod`, in its core's order of one cycle (R285). -/
def execWqpush (h : Head) (d : Dst) (a b : Src) (s : State) : Out :=
  issue (.wqpush h d a b) s fun s =>
    .try_ s (do
      let n ← s.queueOpd h a
      let (_, l) ← s.recordAt .read h b
      .ok (n, l, ← s.openQueue n)) fun (n, l, q) =>
    released s (
      if q.full then .done (s.result d (qStatus true false 0))
      else match q.reserve s.mtime s.core s.inst.uid s.stream with
        | none => .hold s
        | some q' =>
          let r : BitVec 512 := .ofNat 512 (s.loadVal s.stream l)
          let die := dieOf s.core
          .done (((s.external.putQueue die n q').commitAt die n q.ents.length r false).result d
            (qStatus false false q.next)))

/-- `WQPOP` (R167): stalled ones are served in the order they began. -/
def execWqpop (h : Head) (nb : Bool) (d : Dst) (a b : Src) (s : State) : Out :=
  issue (.wqpop h nb d a b) s fun s =>
    let die := dieOf s.core
    let me := (s.core, s.inst.uid, s.stream)
    .try_ s (do
      let n ← s.queueOpd h a
      let (_, l) ← s.recordAt .write h b
      let q := s.wqAt die n
      if n < 16 || q.state == .free || q.dead.contains me then queueBad n
      else .ok (n, l, q)) fun (n, l, q) =>
    if !(s.free_ l && s.unheld l) then .hold s
    else
      let mine := (q.pops.takeWhile (· != me)).isEmpty
      let leave (s : State) : State :=
        let q := s.wqAt die n
        s.setWq die n { q with pops := q.pops.filter (· != me) }
      match if mine then s.popQueue die n else none with
      | some (t, r, s) =>
        let s := (leave s).external
        let s := s.pokes (some s.me) (l.zip (toBytes 64 r.toNat))
        .done ((s.count s.core 0x0D 1).result d (qStatus false false t))
      | none =>
        if q.state == .error && q.ents.isEmpty then .done ((leave s).result d (qStatus true true 0))
        else if nb then .done ((leave s).result d (qStatus true false 0))
        else .hold (if q.pops.contains me then s else s.setWq die n { q with pops := q.pops ++ [me] })

/-- `WQSTAT` (R168). -/
def execWqstat (h : Head) (d : Dst) (a : Src) (s : State) : Out :=
  issue (.wqstat h d a) s fun s =>
    .try_ s (s.queueOpd h a) fun n => .done (s.result d (s.wqAt (dieOf s.core) n).stat)

/-- A tbar operand with LATE checked (R176), and what must have been performed before (R104). -/
def State.tbOpen (s : State) (a : Word) : T (Nat × Tb) := do
  let o ← s.tbAddr a
  .ok (o, s.tbGet s.core s.inst o)

/-- A tbar instruction waits for its stream's own stores to the tbar (R104). -/
def tbReady (s : State) (o : Nat) (r : Res) : Res :=
  let l := (List.range 16).map fun k => Loc.spad (o + k)
  if s.free_ l && s.unheld l then r else .hold s

/-- A tbar of the executing instance updated. -/
def State.tbSet (s : State) (o : Nat) (old new : Tb) (k : State → Res) : Res :=
  match s.tbPut s.core s.inst.uid o old new with
  | .ok s => k s
  | .error f => .broken f

/-- No stream of the instance holds a store to the places. -/
def Inst.noStores (i : Inst) (l : List Loc) : Bool :=
  Machine.streams.all fun st => !(i.streams.get st).eq.any fun
    | .store _ _ els => els.any fun e => e.any fun p => l.contains p.1
    | _ => false

/-- `TBARM` (R176): a release at `.core`. No byte of an armed tbar may change by a store (R173) and none held may
fault (R113), so it waits for every store to the tbar that a stream of its core holds: DESIGN CHOICE (log 70). -/
def execTbarm (h : Head) (ord nudge : Bool) (d : Dst) (a b c : Src) (s : State) : Out :=
  issue (.tbarm h ord nudge d a b c) s fun s =>
    let ad := s.val h .i64 a
    .try_ s (s.tbAddr ad) fun o => tbReady s o (
      let t := s.tbGet s.core s.inst o
      if !s.inst.noStores ((List.range 16).map fun k => .spad (o + k)) then .hold s
      else if t.late || t.armed then .trap ⟨.access, ad⟩ s
      else released s (
        let mid : Tb := { t with arrivals := (s.val h .n64 b).toNat % 2 ^ 32,
                                 sectors := (s.val h .n64 c).toNat, next := 0, ord := ord,
                                 nudge := nudge, armed := true }
        s.tbSet o mid mid.settle fun s => .done (s.result d (.ofNat 64 t.phase))))

/-- `TBWAIT` (R176): LATE is checked when it issues, not while it stalls. -/
def execTbwait (h : Head) (d : Dst) (a b : Src) (s : State) : Out :=
  issue (.tbwait h d a b) s fun s =>
    let ad := s.val h .i64 a
    .try_ s (s.tbAddr ad) fun o => tbReady s o (
      let t := s.tbGet s.core s.inst o
      if t.late && !s.str.tbwait then .trap ⟨.access, ad⟩ s
      else if t.phase ≠ (s.val h .n64 b).toNat % 16 then .done (s.result d (.ofNat 64 t.phase))
      else .hold (s.setStr { s.str with tbwait := true }))

/-- `TBARRIVE` (R176): in ordered mode it stalls until NEXT reaches its index; on an idle tbar it does not, and
sets LATE (R174) and leaves NEXT whatever ORD says: DESIGN CHOICE (log 70). -/
def execTbarrive (h : Head) (a b c : Src) (s : State) : Out :=
  issue (.tbarrive h a b c) s fun s =>
    .try_ s (s.tbAddr (s.val h .i64 a)) fun o => tbReady s o (
      let t := s.tbGet s.core s.inst o
      let k := (s.val h .n64 b).toNat % 2 ^ 24
      if t.armed && t.ord && t.next < k then .hold s
      else
        let idx := if t.ord then some k else none
        s.tbSet o t (t.arrive (s.val h .n64 c).toNat idx) fun s => .done s)

end Sys2Proof.Machine
end

