-- ==== Sys2Proof/Machine/System.lean ====
section
/-! DEFINITION. Privileged instructions: `TLBINV` (R97, R148), the granary (R90 to R93, R149, R150) and
`REMAPSET` (R151). -/

namespace Sys2Proof.Machine

/-- Every TLB and walk cache of the module left with the entries that a test of their address space, first
address and size keeps (R148). -/
def State.tlbs (s : State) (keep : BitVec 16 → Nat → Nat → Bool) : State :=
  { s with
    cores := s.cores.mapVals {} fun _ c => { c with tlb := c.tlb.filter fun e => keep e.asid e.va e.size },
    dies := s.dies.mapVals {} fun _ d => { d with walks := d.walks.filter fun e => keep e.asid e.va e.size } }

/-- `TLBINV` (R148): every translation leaves every TLB and walk cache. -/
def execTlbinv (h : Head) (s : State) : Out :=
  issue (.tlbinv h) s fun s => .done (s.tlbs fun _ _ _ => false)

/-- `TLBINV.A` (R148): the translations that cover an address in an address space. -/
def execTlbinvA (h : Head) (a b : Src) (s : State) : Out :=
  issue (.tlbinvA h a b) s fun s =>
    let v := s.val h .i64 a
    let asid : BitVec 16 := (s.val h .n64 b).setWidth 16
    let va := v.toNat % 2 ^ 57
    .done (s.tlbs fun sp base size => !(canonical v.toNat && sp == asid && base ≤ va && va < base + size))

/-- Size of a die's granary (R90). -/
def granEnd : Nat := 0x20000000

/-- R91: an instance on the die holds its granary. -/
def State.granHeld (s : State) (die : Nat) : Bool :=
  s.cores.any fun (n, c) =>
    dieOf n == die && ((c.main.map (·.gran)).getD false || (c.pre.map (·.gran)).getD false)

/-- Bytes of a virtual address range up to the first that cannot be read, and that byte's cause. -/
def State.readable (s : State) (a : Nat) : Nat → List Loc × Option Trap
  | 0 => ([], none)
  | n + 1 =>
    match place a with
    | .global _ =>
      match (do let l ← s.locByte s.core s.inst .read a; s.inst.soundAt localBase [l]; .ok l : T Loc) with
      | .ok l =>
        let (r, t) := State.readable s ((a + 1) % 2 ^ 64) n
        (l :: r, t)
      | .error t => ([], some t)
    | _ => ([], some ⟨.access, .ofNat 64 a⟩)

/-- Granary bytes written; units that are rewritten can be read again (R302). -/
def State.granWrite (s : State) (off : Nat) (b : List Byte) : State :=
  let d := s.die
  s.setDie (dieOf s.core) { d with
    gran := SMap.setList 0 d.gran off b,
    granBad := d.granBad.filter fun u => u < off / 64 || off / 64 + b.length / 64 ≤ u }

/-- `GRWR` (R91, R149). On a fault of its source some prefix of what could be read is written: how
long is a free value (log 5). -/
def execGrwr (h : Head) (a b c : Src) (s : State) : Out :=
  issue (.grwr h a b c) s fun s =>
    let off := (s.val h .n64 a).toNat
    let src := s.val h .i64 b
    let n := (s.val h .n64 c).toNat
    .try_ s (do
      need (off % 64 == 0) .align (.ofNat 64 off)
      need (src.toNat % 64 == 0) .align src
      need (n % 64 == 0) .align (.ofNat 64 n)
      need (off + n ≤ granEnd) .access (.ofNat 64 (max off granEnd))
      need (!s.granHeld (dieOf s.core)) .granaryWrite (.ofNat 64 off)) fun _ =>
    let (l, t) := s.readable src.toNat n
    afterQueue s l (
      let bytes := s.load s.stream l
      match t with
      | none => .done (s.granWrite off bytes)
      | some t =>
        let k := Config.freeNat s.free % (l.length + 1)
        .trap t (s.nextFree.granWrite off (bytes.take k)))

/-- R92: the start of the next refresh window of a bank at a time. -/
def nextWindow (bank t : Nat) : Nat := t + (500 * bank + 32000 - t % 32000) % 32000

/-- R93: the end of the refresh window of a bank that a time lies in. -/
def inWindow (bank t : Nat) : Option Nat :=
  let d := (t + 32000 - 500 * bank % 32000) % 32000
  if d < 256 then some (t + 256 - d) else none

/-- `GRQ` (R92, R150). -/
def execGrq (h : Head) (d : Dst) (a : Src) (s : State) : Out :=
  issue (.grq h d a) s fun s =>
    let b := s.val h .n64 a
    if 64 ≤ b.toNat then .trap ⟨.access, b⟩ s
    else .done (s.result d (.ofNat 64 (nextWindow b.toNat s.mtime.toNat)))

/-- `REMAPSET` (R151). A 32-bit literal for FROM or TO, a physical address, is read as N64 (DESIGN CHOICE,
log 14). -/
def execRemapset (h : Head) (a b c : Src) (s : State) : Out :=
  issue (.remapset h a b c) s fun s =>
    let n := s.val h .n64 a
    let from_ := s.val h .n64 b
    let to_ := s.val h .n64 c
    let k := s.self
    .try_ s (do
      need (n.toNat < k.remapCnt.toNat) .access n
      need (from_.toNat % 4096 == 0) .align from_
      need (to_.toNat % 4096 == 0) .align to_
      need (from_.toNat < hbmEnd) .access from_
      need (to_.toNat < hbmEnd) .access to_) fun _ =>
    let e := toBytes 8 (from_.toNat + bit (to_ != 0)) ++ toBytes 8 to_.toNat
    match s.devWrite (k.remapBase.toNat * 4096 + 16 * n.toNat) e with
    | .ok s => .done s
    | .error f => .broken f

end Sys2Proof.Machine
end

