-- ==== Sys2Proof/Machine/Copy.lean ====
section
/-! DEFINITION. Running furrows: the points of an `FGO` or a shuttle copy (R210, R211, R220, R223, R227 to
R230, R232), and the start and completion of commands (R12, R219, R222, R225, R226). -/

namespace Sys2Proof.Machine

/-- Where a byte of an element lies (R210): storage the instance names itself, the granary, the
scratchpad behind a window, or an export. -/
inductive ELoc where
  | own (l : Loc)
  | gran (off : Nat)
  | core (n uid off : Nat)
  | exp (m n off : Nat)
  deriving DecidableEq, Repr

/-- `n` consecutive numbers. -/
def run (o : Int) (n : Nat) : List Nat := (List.range n).map fun (k : Nat) => (o + k).toNat

/-- R210, R217, R173, R324: the places of `n` bytes at an offset of a window of a command, which must
be a multiple of `al`. A location of the core with an uncorrectable error, and a granary unit with one,
fails every read (R90, R302); not a unit that has been read ahead (R93). -/
def State.elemAt (s : State) (c : Cmd) (acc : Acc) (w : Nat) (o : Int) (n al : Nat) : T (List ELoc) := do
  let i := s.inst
  let ad : Word := .ofInt 64 o
  let inside (lo hi x : Int) : Bool := lo ≤ x && x + n ≤ hi
  let write := acc == .write
  match fKind c.snap w, c.wins.getD w .plain with
  | .global, _ =>
    need (ad.toNat % al == 0) .align ad
    need (canonical ad.toNat) .access ad
    .ok ((← s.locate s.core i acc ad.toNat n).map .own)
  | .local_, _ =>
    need (o % al == 0) .align ad
    need (inside 0 i.spadLen o) .access ad
    let l := (run o n).map Loc.spad
    need (!(write && l.any i.armedAt)) .access ad
    if !write then i.soundAt 0 l
    .ok (l.map .own)
  | .acc, _ =>
    need (o % al == 0) .align ad
    need (inside 0 (i.acct * 4096) o) .access ad
    let l := (run o n).map Loc.acc
    if !write then i.soundAt 0 l
    .ok (l.map .own)
  | .granary, _ =>
    need (o % al == 0) .align ad
    need (inside 0 granEnd o) .access ad
    match (run o n).find? fun x => s.die.granBad.contains (x / 64) && !c.prog.ahead.any (·.1 == x / 64) with
    | some x => raiseT .eccUncorr (.ofNat 64 x)
    | none => .ok ((run o n).map .gran)
  | .ringp, .ring lo sl | .ringc, .ring lo sl =>
    let x := o + lo
    need (x % al == 0) .align (.ofInt 64 x)
    need (inside lo (lo + sl) x && inside 0 i.spadLen x) .access (.ofInt 64 x)
    let l := (run x n).map Loc.spad
    need (!(write && l.any i.armedAt)) .access (.ofInt 64 x)
    if !write then i.soundAt 0 l
    .ok (l.map .own)
  | .remote, .remote r =>
    need (o % al == 0) .align ad
    need (inside 0 r.len o) .remote ad
    match r.tgt with
    | .core k u =>
      match s.instOf k u with
      | none => raiseT .remote ad
      | some v =>
        let l := (run (o + r.base) n).map Loc.spad
        need (!(write && l.any v.armedAt)) .access ad
        if !write then v.soundAt (-r.base) l
        .ok (if k == s.core && u == i.uid then l.map .own else (run (o + r.base) n).map (.core k u))
    | .export_ m e =>
      match s.exportOf m e with
      | none => raiseT .remote ad
      | some x =>
        need (o + r.base + n ≤ x.length && (!write || x.writable)) .remote ad
        .ok ((run (o + r.base) n).map (.exp m e))
  | _, _ => raiseT .access ad

/-- A physical byte of the machine, however a window names it. -/
inductive Phys where
  | hbm (pa : Nat)
  | spad (core uid off : Nat)
  | acc (off : Nat)
  | gran (off : Nat)
  | peer (module addr : Nat)
  deriving DecidableEq, Repr

/-- Where the byte an element place names lies; an export of this module is its HBM (R313). -/
def State.phys (s : State) : ELoc → Option Phys
  | .own (.hbm a) => some (.hbm a)
  | .own (.spad o) => some (.spad s.core s.inst.uid o)
  | .own (.acc o) => some (.acc o)
  | .gran o => some (.gran o)
  | .core n u o => some (.spad n u o)
  | .exp m n o => (s.exportOf m n).map fun e =>
    if m = s.moduleNo then .hbm (e.base + o) else .peer m (e.base + o)

/-- Some element of `n` bytes of a command's destination window holds a physical byte. -/
def State.writesTo (s : State) (c : Cmd) (n : Nat) (p : Phys) : Bool :=
  let l := (List.range 6).map fun k => (fBound c.snap k, fStride c.snap 1 k)
  let b : Int := fBase c.snap 1
  let hits (x : Int) := nestHits n x (x + 1) l b
  let local_ (o : Nat) := s.winMeets c 1 [] 0 n ⟨.spad, o, 1⟩
  match c.wins.getD 1 .plain, p with
  | .remote r, p => match r.tgt, p with
    | .core k u, .spad k' u' o => k == k' && u == u' && hits (o - r.base)
    | .export_ m e, .hbm a => match s.exportOf m e with
      | some x => m == s.moduleNo && hits (a - x.base - r.base)
      | none => false
    | .export_ m e, .peer m' a => match s.exportOf m e with
      | some x => m == m' && hits (a - x.base - r.base)
      | none => false
    | _, _ => false
  | _, .hbm a => s.winMeets c 1 [] 0 n ⟨.hbm, a, 1⟩
  | _, .spad k u o => k == s.core && u == s.inst.uid && local_ o
  | _, .acc o => s.winMeets c 1 [] 0 n ⟨.acc, o, 1⟩
  | _, _ => false

/-- R220: a source byte is also a destination byte of the same copy, by the byte itself and not by how the
two windows name it; `n` is the size of the destination's elements. -/
def State.overlaps (s : State) (c : Cmd) (n : Nat) (p : ELoc) : Bool := (s.phys p).any (s.writesTo c n)

/-- The byte of an export of this module or another (R313, R320). -/
def State.expAt (s : State) (m n off : Nat) : Byte :=
  match s.exportOf m n with
  | none => 0
  | some e => if m = s.moduleNo then SMap.get 0 s.mem (e.base + off) else (s.peers.get {} m).mem.get 0 (e.base + off)

/-- A shuttle copy. -/
def Cmd.shuttle (c : Cmd) : Bool :=
  match c.op with
  | .cpy _ _ _ _ => true
  | _ => false

/-- A byte as a command reads it: a shuttle copy as its shuttle sees it (R111), another command as its
stream does (R219). -/
def State.elemByte (s : State) (c : Cmd) : ELoc → Byte
  | .own l => if c.shuttle then s.view l else s.peek s.inst l
  | .gran o => s.die.gran.get 0 o
  | .core n u o => match s.instOf n u with
    | some v => (s.spadGet n v o 1).headD 0
    | none => 0
  | .exp m n o => match s.phys (.exp m n o) with
    | some (.hbm a) => if c.shuttle then s.view (.hbm a) else s.peek s.inst (.hbm a)
    | _ => s.expAt m n o

/-- A shuttle copy about to read places: what its shuttle sees of them from now on (R103, R111, R114). -/
def State.looks (s : State) (c : Cmd) (back : Nat) (l : List ELoc) : State :=
  if !c.shuttle then s
  else (wordsHit (l.filterMap fun p => (match s.phys p with
      | some (.hbm a) => some (.hbm a)
      | some (.spad k u o) => if k = s.core ∧ u = s.inst.uid then some (.spad o) else none
      | some (.acc o) => some (.acc o)
      | _ => none : Option Loc).map fun k => (k, 0))).foldl (fun s w => s.look c back w) s

/-- Source bytes; a byte that is also a destination byte is free (R220, log 5). -/
def State.srcBytes (s : State) (c : Cmd) (dn : Nat) (l : List ELoc) : List Byte :=
  l.zipIdx.map fun (p, k) =>
    if s.overlaps c dn p then Config.freeByte (s.free + k) else s.elemByte c p

/-- A byte written outside what the instance names itself. -/
def State.putByte (s : State) (b : Byte) : ELoc → Except Fault State
  | .own _ | .gran _ => .ok s
  | .core n u o => s.spadPut n u o [b]
  | .exp m n o =>
    match s.exportOf m n with
    | none => .ok s
    | some e =>
      if m = s.moduleNo then s.devWrite (e.base + o) [b]
      else
        let p := s.peers.get {} m
        .ok { s with peers := s.peers.set {} m { p with mem := p.mem.set 0 (e.base + o) b } }

/-- One write of a command: its bytes, as a write of the stream itself for an `FGO` (R219); `more` says that
they belong to a write of their word already begun (R85). -/
def State.putBytes (s : State) (by_ : Option Writer) (l : List (ELoc × Byte)) (more : Bool := false) :
    Except Fault State :=
  let own := l.filterMap fun (p, b) => match p with
    | .own k => some (k, b)
    | _ => none
  l.foldlM (fun s p => s.putByte p.2 p.1)
    (if own.isEmpty then s else if more && by_.isSome then s.pokesMore own else s.pokes by_ own)

/-- The 256-byte sector of a destination byte (R174). -/
def ELoc.sector : ELoc → Loc
  | .own (.hbm a) => .hbm (a / 256)
  | .own (.spad o) => .spad (o / 256)
  | .own (.acc o) => .acc (o / 256)
  | .gran o => .hbm (o / 256)
  | .core _ _ o => .spad (o / 256)
  | .exp _ _ o => .hbm (o / 256)

/-- Sectors added to a list, each once. -/
def addSectors (l : List Loc) (d : List ELoc) : List Loc :=
  d.foldl (fun l x => if l.contains x.sector then l else l ++ [x.sector]) l

/-- A tile that a Loom command in progress has locked (R88). -/
def Inst.tileLocked (i : Inst) (t : Nat) : Bool :=
  i.streams.m.eq.any fun
    | .cmd c => c.started && c.written.contains t
    | _ => false

/-- A place that a tile lock keeps from being reached. -/
def Inst.held (i : Inst) : ELoc → Bool
  | .own (.acc o) => i.tileLocked (o / 4096)
  | _ => false

/-- R93: the MTIME at which a unit's read began: when it was read ahead, or else with the units of the
command's next point or step. -/
def Cmd.unitBegan (c : Cmd) (now u : Nat) : Nat :=
  ((c.prog.ahead.find? (·.1 == u)).map (·.2)).getD (c.prog.began.getD now)

/-- R93: the end of the refresh window that some byte's unit still waits for: its bank was in the window
when its read began. -/
def State.refreshing (s : State) (c : Cmd) (l : List ELoc) : Option Nat :=
  let now := s.mtime.toNat
  l.findSome? fun
    | .gran o => (inWindow (bits o 12 6) (c.unitBegan now (o / 64))).filter (now < ·)
    | _ => none

/-- R93: a unit that a byte lies in meets its bank's window as its read begins. -/
def State.meetsWindow (s : State) (c : Cmd) : ELoc → Bool
  | .gran o => (inWindow (bits o 12 6) (c.unitBegan s.mtime.toNat (o / 64))).isSome
  | _ => false

/-- R284: the read units of some bytes that begin now and that a window delays. -/
def State.delays (s : State) (c : Cmd) (l : List ELoc) : Nat :=
  if c.prog.began.isSome then 0
  else (l.filterMap fun
    | .gran o => if s.meetsWindow c (.gran o) && !c.prog.ahead.any (·.1 == o / 64) then some (o / 64) else none
    | _ => none).eraseDups.length

/-- What an attempt to move a point comes to: nothing moves now, because a granary bank refreshes until the
MTIME given, which delays a number of units that begin now (R93, R284), or for another reason; a cause; or
points moved, and the cause the next one of their 8-byte word met. -/
inductive Moved where
  | wait (till : Option (Nat × Nat))
  | trap (t : Trap)
  | ok (s : State) (c : Cmd) (t : Option Trap)
  | broken (f : Fault)

/-- R227: the point is padding. -/
def padded (p : Word) (ix : List Nat) : Bool :=
  (axes p).any fun x =>
    x.extent != 0 &&
      (let c : Int := ix.getD x.outer 0 * x.scale + ix.getD x.inner 0 * x.dil - x.pad
      c < 0 || (x.extent : Int) ≤ c)

/-- R229: an element combined under OPER. -/
def combine (f : Fur) (old src : Nat) : Nat :=
  let ty := match rtypeOf f with
    | 0 => Ty.i32 | 1 => Ty.f32 | 2 => Ty.f16 | _ => Ty.bf16
  if ty.isInt then
    match ropOf f with
    | 0 => (old + src) % 2 ^ 32
    | 1 => if ty.int old < ty.int src then src else old
    | _ => if ty.int src < ty.int old then src else old
  else
    let a := ty.decode old
    let b := ty.decode src
    match ropOf f with
    | 0 => (ty.rndFl 0 (Fl.add 0 a b).1).1
    | 1 => (ty.rndFl 0 (Fl.pick true a b).1).1
    | _ => (ty.rndFl 0 (Fl.pick false a b).1).1

/-- A point's bytes written to its destination, the command's record moved on. A stopped operation
only goes on inside sectors it has begun (R232). -/
def State.land (s : State) (c : Cmd) (dst : List ELoc) (b : List Byte) (dsrc : Nat) (more : Bool := false) : Moved :=
  let sec := addSectors c.prog.sectors dst
  if !s.inst.phase.live && sec.length != c.prog.sectors.length then .wait none
  else
    let by_ : Option Writer := if c.shuttle then none else some ⟨c.st, (s.inst.streams.get c.st).eqDone⟩
    match s.putBytes by_ (dst.zip b) more with
    | .error f => .broken f
    | .ok s =>
      let s := { s with free := s.free + 512 }
      let g := c.prog
      .ok (s.count s.core 5 b.length)
        { c with prog := { g with pt := g.pt + 1, dsrc := dsrc, sectors := sec, buf := g.buf.drop 1,
                                  began := none, fault := false } } none

/-- An attempt that stops at its first cause. -/
def Moved.try_ {α : Type} (x : T α) (k : α → Moved) : Moved :=
  match x with
  | .ok a => k a
  | .error t => .trap t

/-- A place in an export of a module that cannot be reached (R320). -/
def State.cutOff (s : State) : ELoc → Bool
  | .exp m _ _ => !s.reached m
  | _ => false

/-- Waiting for refresh (R93), for tile locks (R88) and for a module that cannot be reached. -/
def State.clear_ (s : State) (c : Cmd) (l : List ELoc) (k : Moved) : Moved :=
  if l.any s.inst.held || l.any s.cutOff then .wait none
  else match s.refreshing c l with
    | some t => .wait (some (t, s.delays c l))
    | none => k

/-- The places of the source element of a point; none of a padding point (R227). -/
def State.srcAt (s : State) (c : Cmd) (mode : CopyMode) (p : Word) (ix : List Nat) : T (List ELoc) :=
  let n := fSize c.snap 1
  if mode == .unfold && padded p ix then .ok [] else s.elemAt c .read 0 (fOffset c.snap 0 ix) n n

/-- The next point of a plain, unfolding or reducing operation; a reducing one reads its destination too
(R229, R302). -/
def State.movePlain (s : State) (c : Cmd) (mode : CopyMode) (p : Word) (back : Nat) (more : Bool) : Moved :=
  let f := c.snap
  let ix := pointAt (fBounds f) c.prog.pt
  let n := fSize f 1
  .try_ (do
    let src ← if c.prog.buf.isEmpty then s.srcAt c mode p ix else .ok []
    let dst ← s.elemAt c .write 1 (fOffset f 1 ix) n n
    if mode.reduces then let _ ← s.elemAt c .read 1 (fOffset f 1 ix) n n
    .ok (src, dst)) fun (src, dst) =>
  s.clear_ c (src ++ dst) (
    let s := s.looks c back src
    let v := match c.prog.buf with
      | b :: _ => b
      | [] => if src.isEmpty then List.replicate n 0 else s.srcBytes c n src
    if mode.reduces then
      let old := ofBytes (dst.map (s.elemByte { c with op := .lsync }))
      let s := if fKind f 1 == .global || fKind f 1 == .remote then s.external else s
      s.land c dst (toBytes n (combine f old (ofBytes v))) 0 more
    else s.land c dst v 0 more)

/-- R230: an ordered reduce whose index has not come reads the source of its next point. A cause that this
read meets while earlier points are still to be combined stands over to the point's turn (R232, log 39). -/
def State.readAhead (s : State) (c : Cmd) (back : Nat) : Moved :=
  let k := c.prog.pt + c.prog.buf.length
  if fPoints c.snap ≤ k || !s.inst.phase.live then .wait none
  else match s.srcAt c .ordered 0 (pointAt (fBounds c.snap) k) with
    | .error t => if c.prog.buf.isEmpty then .trap t else .wait none
    | .ok src => s.clear_ c src (
      let s := s.looks c back src
      .ok { s with free := s.free + 512 } { c with prog := { c.prog with
        buf := c.prog.buf ++ [s.srcBytes c (fSize c.snap 1) src], began := none, fault := false } } none)

/-- R228: the set bits of a bitmap. -/
def bitmap (b : List Byte) : List Bool := b.flatMap fun x => (List.range 8).map fun k => x.getLsbD k

/-- R228 SPARSE: a literal for each set bit, 0 elsewhere. -/
def expandBits : List Bool → List Byte → List Byte
  | [], _ => []
  | true :: m, x :: l => x :: expandBits m l
  | _ :: m, l => 0 :: expandBits m l

/-- R228: what a block's header says, or that it breaks the format or the ratio. -/
def blockHead (h ratio : Nat) (bad : T Unit) : T (Nat × Nat) := do
  let fmt := bits h 12 4
  let len := bits h 0 9
  if 3 < fmt || bits h 9 3 != 0 || ratio * (2 + len) < 256 then bad
  match fmt with
  | 0 => if len != 256 then bad
  | 1 => if len < 32 || 288 < len then bad
  | 2 => if len != 0 then bad
  | _ => if len != 1 then bad
  .ok (fmt, len)

/-- R228: the 256 bytes a block's body stands for. -/
def blockOut (fmt : Nat) (b : List Byte) : List Byte :=
  match fmt with
  | 0 => b
  | 1 => expandBits (bitmap (b.take 32)) (b.drop 32)
  | 2 => List.replicate 256 0
  | _ => List.replicate 256 (b.headD 0)

/-- R93: what a command reads after places that a window has delayed begins when those have been read. -/
def State.afterDelay (s : State) (c : Cmd) (l : List ELoc) : Cmd :=
  if l.any (s.meetsWindow c) then { c with prog := { c.prog with began := none } } else c

/-- The next block of a decoding operation (R228): its header, then its body. An odd first address raises
`ALIGN` at the first block: DESIGN CHOICE (log 28). -/
def State.moveBlock (s : State) (c : Cmd) (ratio back : Nat) : Moved :=
  let f := c.snap
  let o : Int := fBase f 0 + c.prog.dsrc
  let get (x : Int) (n : Nat) : T (List ELoc) := do
    .ok (← (List.range n).mapM fun (k : Nat) => s.elemAt c .read 0 (x + k) 1 1).flatten
  let bad : T Unit := raiseT .decodeRatio (.ofInt 64 o)
  .try_ (do need (o % 2 == 0) .align (.ofInt 64 o); get o 2) fun hd =>
  s.clear_ c hd (
    let s := s.looks c back hd
    let h := ofBytes (State.srcBytes { s with free := s.free + 400 } c 256 hd)
    .try_ (do
      let (fmt, len) ← blockHead h ratio bad
      .ok (fmt, len, ← get (o + 2) (if fmt == 1 then 32 else 0))) fun (fmt, len, map) =>
    let c := s.afterDelay c hd
    s.clear_ c map (
    let s := s.looks c back map
    let set := ((bitmap (s.srcBytes c 256 map)).filter id).length
    .try_ (do
      if fmt == 1 && len != 32 + set then bad
      let body ← get (o + 2) len
      .ok (body, ← s.elemAt c .write 1 (fOffset f 1 (pointAt (fBounds f) c.prog.pt)) 256 64)) fun (body, dst) =>
    let c := s.afterDelay c map
    s.clear_ c (body ++ dst) (
      let s := s.looks c back body
      s.land c dst (blockOut fmt (s.srcBytes c 256 body)) (c.prog.dsrc + 2 + (len + 1) / 2 * 2))))

/-- What a copy does: its mode and parameter. -/
def CmdOp.copy : CmdOp → Option (CopyMode × Word)
  | .fgo m p | .cpy m _ p _ => some (m, p)
  | _ => none

/-- R111: an access of a copy's issuer that precedes the copy is not yet performed. -/
def State.follows (s : State) (c : Cmd) : Bool :=
  let x := s.inst.streams.get c.st
  c.shuttle && (x.eq.take (c.after - x.eqDone)).any EqItem.access

/-- The next point of a running operation of the executing core. A copy follows every earlier access
of its issuing stream (R111); an ordered one combines at its index (R230). A stopped operation stays at a
point where a fault of its own has stopped it (R232). -/
def State.move (s : State) (c : Cmd) (back : Nat) (more : Bool := false) : Moved :=
  match c.op.copy with
  | none => .wait none
  | some (mode, p) =>
    if fPoints c.snap ≤ c.prog.pt || s.follows c || (c.prog.fault && !s.inst.phase.live) then .wait none
    else .try_ (s.inst.sound [.cmd c.id]) fun _ =>
      if mode == .ordered && !c.prog.applied then s.readAhead c back
      else match mode with
        | .decode => s.moveBlock c (fld p 0 8) back
        | _ => s.movePlain c mode p back more

/-- The aligned 8-byte word of an element's place (R85). -/
def ELoc.word : ELoc → ELoc
  | .own l => .own l.word
  | .gran o => .gran (o / 8 * 8)
  | .core n u o => .core n u (o / 8 * 8)
  | .exp m n o => .exp m n (o / 8 * 8)

/-- R85: the destination of the next point, where it is other bytes of the aligned 8-byte word that the
points before it have written. -/
def State.sameWord (s : State) (c : Cmd) (seen : List ELoc) : Option (List ELoc) :=
  let f := c.snap
  match c.op.copy with
  | some (.decode, _) | none => none
  | some _ =>
    if fPoints f ≤ c.prog.pt then none
    else match s.elemAt c .write 1 (fOffset f 1 (pointAt (fBounds f) c.prog.pt)) (fSize f 1) (fSize f 1) with
      | .ok d =>
        if d.head?.map ELoc.word == seen.head?.map ELoc.word && d.all (!seen.contains ·) then some d else none
      | .error _ => none

/-- R85: a copy writes each aligned 8-byte word once: the points that follow one another in it move
together in one write, or none of them does; a cause that one of them meets leaves those before it moved
(R232). -/
def State.moveWord (back : Nat) : Nat → State → Cmd → List ELoc → Moved
  | 0, s, c, _ => .ok s c none
  | n + 1, s, c, seen =>
    match s.sameWord c seen with
    | none => .ok s c none
    | some d => match s.move c back true with
      | .ok s' c' _ => State.moveWord back n s' c' (seen ++ d)
      | .trap t => .ok s c (some t)
      | r => r

/-- The next points of an operation: those of one word of its destination, or what an ordered reduce reads
ahead. -/
def State.moves (s : State) (c : Cmd) (back : Nat) : Moved :=
  match s.move c back with
  | .ok s' c' t =>
    if c'.prog.pt = c.prog.pt then .ok s' c' t
    else match s.elemAt c .write 1 (fOffset c.snap 1 (pointAt (fBounds c.snap) c.prog.pt)) (fSize c.snap 1)
        (fSize c.snap 1) with
      | .ok d => State.moveWord back 8 s' c' d
      | .error _ => .ok s' c' t
  | r => r

/-- The first command of a queue if it stands at the head and has started. -/
def running (q : List EqItem) : Option Cmd :=
  match q with
  | .cmd c :: _ => if c.started then some c else none
  | _ => none

/-- The operation an engine runs: for the Loom the command at the head of its queue. -/
def Inst.op (i : Inst) : Engine → Option Cmd
  | .loom => running i.streams.m.eq
  | .fgo st => running (i.streams.get st).eq
  | .copy id => i.copies.find? (·.id == id)

/-- Replacing it. -/
def Inst.setOp (i : Inst) (e : Engine) (c : Cmd) : Inst :=
  let head (st : Stream) := i.modStr st fun x => { x with eq := .cmd c :: x.eq.drop 1 }
  match e with
  | .loom => head .M
  | .fgo st => head st
  | .copy id => { i with copies := i.copies.map fun x => if x.id == id then c else x }

/-- A point of a copy or an `FGO`, with those of the same word of its destination (R85, R210, R220, R232). -/
def execCopyPoint (core : Nat) (e : Engine) (back : Nat) (s : State) : Out :=
  let s := s.on core s.stream
  match s.inst.op e with
  | none => .next s
  | some c =>
    let s := s.on core c.st
    let stopped (s : State) (c : Cmd) (t : Trap) : State :=
      let s := s.setInst (s.inst.setOp e { c with prog := { c.prog with fault := true } })
      if s.inst.phase.live then s.raise c.st t else s
    if c.prog.hold.isSome then .next s
    else match s.moves c back with
      | .wait none => .next s
      | .wait (some (t, n)) =>
        let g := c.prog
        let s := s.setInst (s.inst.setOp e
          { c with prog := { g with hold := some t, began := some (g.began.getD s.mtime.toNat) } })
        .next (s.count core 7 n)
      | .trap t => .next (stopped s c t)
      | .ok s' c' t =>
        let c' := { c' with prog := { c'.prog with began := none } }
        .next (match t with
          | some t => stopped s' c' t
          | none => s'.setInst (s'.inst.setOp e c'))
      | .broken f => .fault f

/-- The engines of an instance that may have begun something. -/
def Inst.engines (i : Inst) : List Engine := .fgo .L :: .fgo .S :: i.copies.map fun c => .copy c.id

/-- R232: a stopped operation still goes on inside a sector it has begun. -/
def State.unsettled (s : State) (core : Nat) : Bool :=
  let s := s.on core .C
  s.inst.engines.any fun e => match s.inst.op e with
    | none => false
    | some c => match (s.on core c.st).moves c 0 with
      | .ok _ _ _ | .wait (some _) => true
      | _ => false

/-- A granary read unit resumes once its bank's window has ended (R93). -/
def execGranaryReadResume (core : Nat) (e : Engine) (s : State) : Out :=
  let s := s.on core s.stream
  match s.inst.op e with
  | none => .next s
  | some c => match c.prog.hold with
    | some t =>
      if t ≤ s.mtime.toNat then
        .next (s.setInst (s.inst.setOp e { c with prog := { c.prog with hold := none } }))
      else .next s
    | none => .next s

/-- R93: an operation of the executing core reads a unit of the granary. -/
def State.readsUnit (s : State) (c : Cmd) (u : Nat) : Bool :=
  let x : Span := ⟨.gran, 64 * u, 64⟩
  match c.op.copy with
  | some (m, p) => s.touches { c with op := .fgo m p } x
  | none => s.touches c x

/-- R93: a unit of a running operation begins its read ahead of the unit that the operation waits for; in
its own bank's window it waits for that window's end, which counts as a delay (R284). -/
def State.granaryRead (s : State) (core : Nat) (e : Engine) (u : Nat) : State :=
  let s := s.on core s.stream
  match s.inst.op e with
  | none => s
  | some c =>
    let g := c.prog
    if s.inst.phase.live && s.readsUnit c u && !g.ahead.any (·.1 == u) && !s.die.granBad.contains u then
      let now := s.mtime.toNat
      (s.setInst (s.inst.setOp e { c with prog := { g with ahead := g.ahead ++ [(u, now)] } })).count core 7
        (bit (inWindow (u / 64 % 64) now).isSome)
    else s

/-- R12: a command at the head of its queue takes its wait, or joins the waiters of its semaphore. -/
def State.startCmd (s : State) (w : Waiter) (h : Head) : State :=
  let i := s.inst
  if i.waits.any (·.1 == w) then s
  else if h.wamt = 0 then s.setInst (i.granted h.wsem 0 w)
  else match i.tryWait h.wsem h.wamt with
    | some i => s.setInst (i.granted h.wsem h.wamt w)
    | none => s.enlist w h.wsem h.wamt

/-- The same for a command read from its queue: an uncorrectable error in it, or in the count that it waits
for, is raised (R302). -/
def State.beginCmd (s : State) (w : Waiter) (c : Cmd) : State :=
  match s.inst.sound (.cmd c.id :: if c.head.wamt = 0 then [] else [.sem c.head.wsem]) with
  | .ok _ => s.startCmd w c.head
  | .error t => s.raise c.st t

/-- The command at the head of an engine queue that has not started. -/
def unstarted (q : List EqItem) : Option Cmd :=
  match q with
  | .cmd c :: _ => if c.started then none else some c
  | _ => none

/-- The `FGO` at the head of its stream's engine queue starts (R12, R219). -/
def execFgoCommandStart (core : Nat) (st : Stream) (s : State) : Out :=
  let s := s.on core st
  match unstarted s.str.eq with
  | some c => if s.inst.phase.live && st != .M then .next (s.beginCmd (.queue st) c) else .next s
  | none => .next s

/-- An `FGO` has moved every point: it posts and leaves its queue (R219). -/
def execFgoComplete (core : Nat) (st : Stream) (s : State) : Out :=
  let s := s.on core st
  match running s.str.eq with
  | some c =>
    if s.inst.phase.live && c.op.copy.isSome && fPoints c.snap ≤ c.prog.pt then
      .next ((s.setStr { s.str with eq := .post (postOf c.head) :: s.str.eq.drop 1 }).settle st)
    else .next s
  | none => .next s

/-- The head of the shuttle queue starts (R12, R222). -/
def execShuttleCommandStart (core : Nat) (s : State) : Out :=
  let s := s.on core s.stream
  match s.inst.shq with
  | c :: _ =>
    if s.inst.phase.live && s.inst.copies.length < 16 then
      .next ((s.on core c.st).beginCmd .shuttle c)
    else .next s
  | [] => .next s

/-- The issue time of a timed copy (R226). -/
def Cmd.time (c : Cmd) : Nat :=
  match c.op with
  | .cpy _ _ _ (some t) => t.toNat
  | _ => 0

/-- The entry of the time-sorted buffer that leaves first: least time, then order of entry (R226). -/
def earliest (l : List Cmd) : Option Cmd :=
  l.foldl (fun r c => match r with
    | none => some c
    | some b => if c.time < b.time then some c else some b) none

/-- A timed copy whose time has come enters the shuttle queue (R226). -/
def Inst.release (i : Inst) (now : Nat) : Inst :=
  match earliest i.timed with
  | some c =>
    if c.time ≤ now && i.shq.length < 64 then
      { i with timed := i.timed.filter (·.id != c.id), shq := i.shq ++ [c] }
    else i
  | none => i

/-- R287, R297: every timed copy whose time has passed enters the shuttle queue, in time order, then in
order of entry. -/
def Inst.releaseAll (i : Inst) (now : Nat) : Inst := i.timed.foldl (fun i _ => i.release now) i

/-- A timed copy whose time has come enters the shuttle queue (R226). -/
def execTimedCopyRelease (core : Nat) (s : State) : Out :=
  let s := s.on core s.stream
  .next (if s.inst.phase.live then s.setInst (s.inst.release s.mtime.toNat) else s)

/-- The tbar a command counts on: core, instance and offset (R224). -/
def State.tbarOf (s : State) (c : Cmd) : Option (Nat × Nat × Nat) :=
  match c.op with
  | .cpy _ t _ _ => if t = 0 then none else s.copyTbar c.wins t
  | _ => none

/-- R302: the tbar that a command counts on, or waits for, can be read. -/
def State.tbarSound (s : State) (c : Cmd) : T Unit :=
  match s.tbarOf c with
  | none => .ok ()
  | some (n, u, o) => match s.instOf n u with
    | none => .ok ()
    | some v => v.soundAt localBase ((run o 16).map .spad)

/-- The arrival index of an ordered copy (R230). -/
def Cmd.index (c : Cmd) : Option Nat :=
  match c.op with
  | .cpy .ordered _ p _ => some (p.toNat % 2 ^ 24)
  | _ => none

/-- An ordered reduce reaches its turn (R174, R230): NEXT equals its index, or it applies at once and
sets LATE because its index is past or its tbar is not armed in ordered mode. -/
def execOrderedReduceApply (core id : Nat) (s : State) : Out :=
  let s := s.on core s.stream
  match s.inst.op (.copy id) with
  | none => .next s
  | some c =>
    let s := s.on core c.st
    let mark (s : State) : State :=
      s.setInst (s.inst.setOp (.copy id) { c with prog := { c.prog with applied := true } })
    match c.index, s.tbarOf c with
    | some k, some (n, u, o) =>
      if c.prog.applied || !s.inst.phase.live then .next s
      else match s.instOf n u, s.tbarSound c with
        | none, _ => .next (mark s)
        | some _, .error t => .next (s.raise c.st t)
        | some v, .ok _ =>
          let t := s.tbGet n v o
          if t.armed && t.ord && t.next == k then .next (mark s)
          else if t.armed && t.ord && t.next < k then .next s
          else match s.tbPut n u o t { t with late := true } with
            | .ok s => .next (mark s)
            | .error f => .fault f
    | _, _ => .next s

/-- R225: a copy's count on its tbar; on a tbar of another core it is an external effect (R293). -/
def State.countCopy (s : State) (c : Cmd) : Except Fault State :=
  match s.tbarOf c with
  | none => .ok s
  | some (n, u, o) =>
    match s.instOf n u with
    | none => .ok s
    | some v =>
      let t := s.tbGet n v o
      let s := if n = s.core then s else s.external
      s.tbPut n u o t (t.arrive c.prog.sectors.length c.index)

/-- A copy completes (R111, R225): it counts on its tbar, and then posts. One that visits no point waits for
its issuer's earlier accesses too: DEDUCED (log 13). -/
def execCopyComplete (core id : Nat) (s : State) : Out :=
  let s := s.on core s.stream
  match s.inst.op (.copy id) with
  | none => .next s
  | some c =>
    let s := s.on core c.st
    if s.inst.phase.live && fPoints c.snap ≤ c.prog.pt && (c.index.isNone || c.prog.applied) && !s.follows c then
      match s.tbarSound c, s.countCopy c with
      | .error t, _ => .next (s.raise c.st t)
      | .ok _, .error f => .fault f
      | .ok _, .ok s =>
        let i := { s.inst with copies := s.inst.copies.filter (·.id != id) }
        if c.head.pamt = 0 then .next (s.setInst i)
        else match i.post c.head.psem c.head.pamt with
          | .ok i => .next (s.setInst i)
          | .error t => .next ((s.setInst i).raise c.st t)
    else .next s

end Sys2Proof.Machine
end

