-- ==== Sys2Proof/Machine/Csr.lean ====
section
/-! DEFINITION. Control registers (R31 to R35, R135, R136): reading and writing one by its CRN for a
stream of a core, as the four instructions and the access paths of R290 do. -/

namespace Sys2Proof.Machine

/-- `pcr.FPC_C` to `pcr.FPC_S` by number (R35). -/
def fpcStream : Nat → Option Stream
  | 0x100 => some .C | 0x101 => some .L | 0x102 => some .M | 0x103 => some .V | 0x104 => some .S
  | _ => none

/-- Cores of a plot that hold a draught grant (R277). -/
def State.grants (s : State) (plot : Nat) : Nat :=
  ((List.range 12).filter fun k => (s.coreAt (12 * plot + k)).grant).length

/-- `cr.STATUS` as a stream reads it (R33). -/
def Inst.status (i : Inst) (st : Stream) : Nat :=
  bit i.launch.priv * 32 + bit (st == .C && i.inhnd) * 16 + bit (st == .C && i.nmask) * 8 + st.num

/-- An address held divided by 8, as it is read (R33). -/
def by8 (w : Word) : Word := w &&& ~~~7

/-- A control register of a core as an instance's stream reads it (R32, R33, R35); bits and numbers
that are not assigned read zero. -/
def State.csRead (s : State) (core : Nat) (i : Inst) (st : Stream) (n : Nat) : Word :=
  let c := s.coreAt core
  let x := i.streams.get st
  let p := s.plotAt (plotOf core)
  match n with
  | 0x000 => .ofNat 64 (i.status st)
  | 0x001 => .ofNat 64 (i.causeArg.toNat * 65536 + i.causeSt.toNat * 256 + i.cause.toNat)
  | 0x002 => i.inst.setWidth 64
  | 0x009 => s.mtime
  | 0x00A => i.ovf.setWidth 64
  | 0x00B => x.rnd.setWidth 64
  | 0x00C => x.cvpol.setWidth 64
  | 0x00D => x.tag.setWidth 64
  | 0x00E => .ofNat 64 (bit (c.held i) * 4096 + i.draught * 256 + s.grants (plotOf core) * 16 + p.budget % 16)
  | 0x00F => .ofNat 64 (32000 * 2 ^ 32 + 500 * 2 ^ 16 + 256)
  | 0x010 => .ofNat 64 (bit i.mprog.valid * 2 ^ 63 + i.mprog.kstep.toNat * 2 ^ 32 + i.mprog.row.toNat)
  | 0x011 => if st = .C then by8 i.nudgevec else 0
  | 0x012 => .ofNat 64 (bit x.cbpol)
  | 0x013 => .ofNat 64 (bit x.shpol)
  | 0x014 => .ofNat 64 (plotOf core)
  | 0x015 => .ofNat 64 core
  | 0x016 => (s.dieAt (dieOf core)).age.setWidth 64
  | 0x017 => by8 i.trapvec
  | 0x018 => by8 i.trappc
  | 0x019 => by8 i.nudgepc
  | 0x01A => .ofNat 64 (bit i.srcQueue * 2 + bit i.srcTbar)
  | 0x105 => c.fcause.setWidth 64
  | 0x106 => c.fstream.setWidth 64
  | 0x107 => c.faddr
  | 0x108 => c.ctxbase.setWidth 64 <<< 12
  | 0x109 => .ofNat 64 (bit c.pre.isSome * 2 + bit c.regEn)
  | 0x10A => c.remapBase.setWidth 64 <<< 12 ||| c.remapCnt.setWidth 64
  | n =>
    if 0x003 ≤ n ∧ n ≤ 0x008 then (i.idx.getD (n - 3) 0).setWidth 64
    else if 0x080 ≤ n ∧ n < 0x088 then p.perf.get 0 (n - 0x80)
    else if 0x088 ≤ n ∧ n < 0x090 then (p.perfsel.get 0 (n - 0x88)).setWidth 64
    else match fpcStream n with
      | some t => by8 (c.fpc.get t)
      | none => 0

/-- The RW bits of a control register (R33, R35). -/
def crRw (n : Nat) : Word :=
  match n with
  | 0x00B | 0x00C => 3
  | 0x00D => 63
  | 0x011 | 0x017 | 0x100 | 0x101 | 0x102 | 0x103 | 0x104 => ~~~7
  | 0x012 | 0x013 | 0x109 => 1
  | 0x108 => ~~~0xFFF
  | 0x10A => ~~~0xF00
  | _ => 0

/-- The W1C bits of a control register: the flags of `cr.OVF` (R33). -/
def crW1c (n : Nat) : Word := if n = 0x00A then 0x3FF else 0

/-- A control register (R32, R35) written for a stream: `w` holds every RW field and the flags that remain. -/
def State.csPut (s : State) (core : Nat) (i : Inst) (st : Stream) (n : Nat) (w : Word) : Core :=
  let c := s.coreAt core
  let str (f : StreamSt → StreamSt) : Core := c.setAct (i.modStr st f)
  match n with
  | 0x00A => c.setAct { i with ovf := w.setWidth 10 }
  | 0x00B => str fun x => { x with rnd := w.setWidth 2 }
  | 0x00C => str fun x => { x with cvpol := w.setWidth 2 }
  | 0x00D => str fun x => { x with tag := w.setWidth 6 }
  | 0x011 => if st = .C then c.setAct { i with nudgevec := w } else c
  | 0x012 => str fun x => { x with cbpol := w.getLsbD 0 }
  | 0x013 => str fun x => { x with shpol := w.getLsbD 0 }
  | 0x017 => c.setAct { i with trapvec := w }
  | 0x108 => { c with ctxbase := (w >>> 12).setWidth 52 }
  | 0x109 => { c with regEn := w.getLsbD 0 }
  | 0x10A => { c with remapBase := (w >>> 12).setWidth 52, remapCnt := w.setWidth 8 }
  | n => match fpcStream n with
    | some t => { c with fpc := c.fpc.set t w }
    | none => c

/-- R135: a write field by field: `f old v` for the RW bits; `clr` is what W1C bits see. -/
def State.csWrite (s : State) (core : Nat) (i : Inst) (st : Stream) (n : Nat)
    (f : Word → Word → Word) (v clr : Word) : State :=
  let old := s.csRead core i st n
  let w := (f old v &&& crRw n) ||| (old &&& crW1c n &&& ~~~clr)
  s.setCore core (s.csPut core i st n w)

/-- A control register as the executing stream reads it. -/
def State.csr (s : State) (n : BitVec 9) : Word := s.csRead s.core s.inst s.stream n.toNat

/-- `CSRD` (R135). -/
def execCsrd (h : Head) (d : Dst) (crn : BitVec 9) (s : State) : Out :=
  issue (.csrd h d crn) s fun s => .done (s.result d (s.csr crn))

/-- A writing form (R135): the old value is the result; the register is written with the operand read
before the result. -/
def csModify (d : Dst) (crn : BitVec 9) (f : Word → Word → Word) (v clr : Word) (s : State) : Res :=
  let old := s.csr crn
  let s := s.csWrite s.core s.inst s.stream crn.toNat f v clr
  .done (s.result d old)

/-- `CSWR` (R135). A 32-bit literal A of the three writes is read as I64 (DESIGN CHOICE, log 14). -/
def execCswr (h : Head) (d : Dst) (crn : BitVec 9) (a : Src) (s : State) : Out :=
  issue (.cswr h d crn a) s fun s =>
    csModify d crn (fun _ v => v) (s.val h .i64 a) (s.val h .i64 a) s

/-- `CSSET` (R135, log 14). -/
def execCsset (h : Head) (d : Dst) (crn : BitVec 9) (a : Src) (s : State) : Out :=
  issue (.csset h d crn a) s fun s => csModify d crn (· ||| ·) (s.val h .i64 a) 0 s

/-- `CSCLR` (R135, log 14). -/
def execCsclr (h : Head) (d : Dst) (crn : BitVec 9) (a : Src) (s : State) : Out :=
  issue (.csclr h d crn a) s fun s =>
    csModify d crn (fun o v => o &&& ~~~v) (s.val h .i64 a) (s.val h .i64 a) s

end Sys2Proof.Machine
end

