-- ==== Sys2Proof/Machine/Launch.lean ====
section
/-! DEFINITION. Launch records, job headers, declaration blocks and loop tables (R14 to R16, R19, R20,
R264, R266) and what the dispatcher checks in them (R267). -/

namespace Sys2Proof.Machine

/-- HDR of a launch record (R266). -/
def lrHdr (r : BitVec 512) : Nat := fld r 0 64
@[inherit_doc lrHdr] def lrPlots (r : BitVec 512) : Word := r.extractLsb' 64 64
@[inherit_doc lrHdr] def lrRoot (r : BitVec 512) : BitVec 40 := r.extractLsb' 152 40
@[inherit_doc lrHdr] def lrAsid (r : BitVec 512) : BitVec 16 := r.extractLsb' 136 16
@[inherit_doc lrHdr] def lrPrio (r : BitVec 512) : Nat := fld r 134 2
@[inherit_doc lrHdr] def lrNpred (r : BitVec 512) : Nat := fld r 131 3
@[inherit_doc lrHdr] def lrJoin (r : BitVec 512) : Bool := flag r 130
@[inherit_doc lrHdr] def lrChild (r : BitVec 512) : Bool := flag r 129
/-- The loop table of a launch record (R266). -/
def lrLoops (r : BitVec 512) : List (BitVec 32) :=
  (List.range 6).map fun k => r.extractLsb' (192 + 32 * k) 32
/-- The predecessors a record names (R266): none where it holds CONT. -/
def lrPreds (r : BitVec 512) : List Nat :=
  if lrJoin r then [] else (List.range (min 4 (lrNpred r))).map fun k => fld r (384 + 32 * k) 32
/-- CONT of a record with JOIN (R266). -/
def lrCont (r : BitVec 512) : Nat := if lrJoin r then fld r 384 64 else 0

/-- KIND and BOUND of a loop level (R19). -/
def loopKind (e : BitVec 32) : Nat := fld e 24 2
@[inherit_doc loopKind] def loopBound (e : BitVec 32) : Nat := fld e 0 24

/-- R20: the number of instances of a launch. -/
def instCount (l : List (BitVec 32)) : Nat :=
  if l.any fun e => loopKind e != 0 && loopBound e == 0 then 0
  else l.foldl (fun n e => if 2 ≤ loopKind e then n * loopBound e else n) 1

/-- R20: the spatial indices of an instance number, the highest-numbered spatial level fastest. -/
def spatialIdx (l : List (BitVec 32)) (n : Nat) : List (BitVec 24) :=
  (l.foldr (fun e (p : Nat × List (BitVec 24)) =>
    if 2 ≤ loopKind e then (p.1 / loopBound e, .ofNat 24 (p.1 % loopBound e) :: p.2)
    else (p.1, 0 :: p.2)) (n, [])).2

/-- R21: the number of an instance's group of equal D indices. -/
def dGroup (l : List (BitVec 32)) (ix : List (BitVec 24)) : Nat :=
  (l.zip ix).foldl (fun n (e, x) => if loopKind e = 3 then n * loopBound e + x.toNat else n) 0

/-- The loop table has a D level (R275). -/
def hasD (l : List (BitVec 32)) : Bool := l.any fun e => loopKind e == 3

/-- R20: the T indices of the next temporal iteration; none after the last. -/
def nextIter (l : List (BitVec 32)) (ix : List (BitVec 24)) : Option (List (BitVec 24)) :=
  let (carry, out) := (l.zip ix).foldr (fun (e, x) (p : Bool × List (BitVec 24)) =>
    if p.1 && loopKind e == 1 then
      if x.toNat + 1 < loopBound e then (false, (x + 1) :: p.2) else (true, 0 :: p.2)
    else (p.1, x :: p.2)) (true, [])
  if carry then none else some out

/-- R19: a loop table that no check refuses. -/
def loopsOk (l : List (BitVec 32)) : Bool :=
  l.all (fun e => fld e 26 6 == 0 && (loopKind e != 0 || loopBound e == 0)) &&
    l.foldl (fun n e => if 2 ≤ loopKind e then n * loopBound e else n) 1 ≤ 2 ^ 32

/-- SEMMASK of a job header (R14), as the semaphores it names in rising order. -/
def hdrSems (h : BitVec 512) : List Nat := (List.range 32).filter fun n => flag h (224 + n)

/-- Semaphore rows of a declaration block (R15). -/
def semRows (h : BitVec 512) : Nat := ((hdrSems h).length + 7) / 8

/-- NRING, NIN and NOUT (R14). -/
def hdrNring (h : BitVec 512) : Nat := fld h 320 4
@[inherit_doc hdrNring] def hdrNin (h : BitVec 512) : Nat := fld h 328 8
@[inherit_doc hdrNring] def hdrNout (h : BitVec 512) : Nat := fld h 336 8

/-- Rows of a declaration block (R15). -/
def declRows (h : BitVec 512) : Nat := semRows h + hdrNring h + hdrNin h + hdrNout h

/-- R15: the declared semaphore values in the order of their semaphores. -/
def semVals (h : BitVec 512) (d : List (BitVec 128)) : List (Nat × BitVec 16) :=
  (hdrSems h).zipIdx.map fun (n, k) => (n, (d.getD (k / 8) 0).extractLsb' (16 * (k % 8)) 16)

/-- R15: the ring rows. -/
def ringRows (h : BitVec 512) (d : List (BitVec 128)) : List (BitVec 128) :=
  (d.drop (semRows h)).take (hdrNring h)

/-- R15: a ring row's ring, its cursors 0 (R18). -/
def ringOf (r : BitVec 128) : Ring :=
  { base := fld r 0 32, slot := fld r 32 32, count := fld r 64 8,
    full := ⟨fld r 72 5, Nat.mod_lt _ (by decide)⟩, empty := ⟨fld r 80 5, Nat.mod_lt _ (by decide)⟩ }

/-- R15: base and length of a region row. -/
def regionOf (r : BitVec 128) : Nat × Nat := (fld r 0 64, fld r 64 64)
/-- R15: the declared input regions. -/
def inRegions (h : BitVec 512) (d : List (BitVec 128)) : List (Nat × Nat) :=
  ((d.drop (semRows h + hdrNring h)).take (hdrNin h)).map regionOf
/-- R15: the declared output regions. -/
def outRegions (h : BitVec 512) (d : List (BitVec 128)) : List (Nat × Nat) :=
  ((d.drop (semRows h + hdrNring h + hdrNin h)).take (hdrNout h)).map regionOf

/-- Two ranges with a byte in common. -/
def meets (a b : Nat × Nat) : Bool := a.1 < b.1 + b.2 && b.1 < a.1 + a.2

/-- R16: a region within the 57-bit virtual space. -/
def regionOk (r : Nat × Nat) : Bool :=
  1 ≤ r.2 && canonical r.1 && r.1 + r.2 ≤ 2 ^ 64 && (r.1 + r.2 - 1) / 2 ^ 56 == r.1 / 2 ^ 56

/-- R16: the job header alone. -/
def headerOk (h : BitVec 512) : Bool :=
  let on (k : Nat) := flag h (464 + k)
  fld h 448 8 == 1 && fld h 464 5 != 0 && fld h 457 7 == 0 && fld h 469 43 == 0 &&
    fld h 308 12 == 0 && fld h 378 6 == 0 && fld h 361 7 == 0 && fld h 344 4 == 0 && fld h 324 4 == 0 &&
    fld h 0 3 == 0 && canonical (fld h 0 64) && fld h 384 4 == 0 &&
    (List.range 5).all (fun k => !on k ||
      (fld h (64 + 32 * k) 3 == 0 && 1 ≤ fld h (256 + 8 * k) 8 && fld h (256 + 8 * k) 8 ≤ 32)) &&
    (!on 3 || (fld h 296 8 ≤ 32 && fld h 304 4 ≤ 8)) &&
    fld h 352 9 ≤ 384 && fld h 368 10 ≤ 768 && fld h 348 4 ≤ 12 &&
    hdrNring h ≤ 8 && hdrNin h ≤ 16 && hdrNout h ≤ 16

/-- R16: one ring row. -/
def ringRowOk (h : BitVec 512) (x : BitVec 128) : Bool :=
  let r := ringOf x
  fld x 85 43 == 0 && fld x 77 3 == 0 && r.base % 16 == 0 && r.slot % 16 == 0 && 16 ≤ r.slot &&
    2 ≤ r.count && r.count ≤ 64 && r.base + r.count * r.slot ≤ fld h 352 9 * 4096 && r.full != r.empty &&
    !(hdrSems h).contains r.full.val && !(hdrSems h).contains r.empty.val

/-- R16: two rings of one job share neither a semaphore nor a byte. -/
def ringsApart (a b : BitVec 128) : Bool :=
  let r := ringOf a
  let q := ringOf b
  r.full != q.full && r.full != q.empty && r.empty != q.full && r.empty != q.empty &&
    !meets (r.base, r.count * r.slot) (q.base, q.count * q.slot)

/-- R16: every pair of a list. -/
def pairwise {α : Type} (p : α → α → Bool) : List α → Bool
  | [] => true
  | x :: t => t.all (p x) && pairwise p t

/-- R16: the declaration block, but for regions that overlap. -/
def declOk (h : BitVec 512) (d : List (BitVec 128)) : Bool :=
  let n := (hdrSems h).length
  ((List.range (8 * semRows h)).all fun k =>
    k < n || (d.getD (k / 8) 0).extractLsb' (16 * (k % 8)) 16 == 0) &&
    (ringRows h d).all (ringRowOk h) && pairwise ringsApart (ringRows h d) &&
    (inRegions h d).all regionOk && (outRegions h d).all regionOk

/-- R16: an output region that overlaps an input region. -/
def regionsMeet (h : BitVec 512) (d : List (BitVec 128)) : Bool :=
  (outRegions h d).any fun o => (inRegions h d).any (meets o)

/-- Bytes read in an address space, translated from the tables as they stand (R267 as R96 for `LD`);
none where a translation or permission fails. -/
def State.readAs (s : State) (asid : BitVec 16) (root : BitVec 40) (priv : Bool) (a n : Nat) :
    Option (List Byte) :=
  (List.range n).mapM fun k =>
    let x := (a + k) % 2 ^ 64
    if !canonical x then none
    else match permit (s.walk asid (x % 2 ^ 57) levels (root.toNat * 4096)) .read priv x with
      | .ok pa => some (SMap.get 0 s.mem pa)
      | .error _ => none

/-- Bytes in rows of 16 (R15). -/
def rowsOf (b : List Byte) : List (BitVec 128) :=
  (List.range (b.length / 16)).map fun k => .ofNat 128 (ofBytes ((b.drop (16 * k)).take 16))

/-- A job header and its declaration block as a launch record names them (R267 step 4). -/
def State.readJob (s : State) (priv : Bool) (r : BitVec 512) : Option (BitVec 512 × List (BitVec 128)) := do
  let get := s.readAs (lrAsid r) (lrRoot r) priv
  let h : BitVec 512 := .ofNat 512 (ofBytes (← get (lrHdr r) 64))
  let d ← get (fld h 384 64) (16 * declRows h)
  some (h, rowsOf d)

/-- Who submits a launch record (R263, R157, R272), and what its node takes from it. -/
structure Sub where
  /-- accepting die -/
  die    : Nat
  g      : GraphId
  priv   : Bool
  /-- the queue's or the spawning launch's ASID (R267, code 0x07) -/
  asid   : BitVec 16
  /-- QPLOTS or the spawning launch's PLOTS (R267, code 0x06) -/
  plots  : Word
  /-- the record may name itself a child of a node that holds a join counter (R267, code 0x09) -/
  child  : Bool
  /-- the node table is checked, for `SPAWN` (R267, code 0x0A) -/
  spawn  : Bool
  parent : Option (Nat × Nat) := none
  user   : BitVec 32 := 0
  cq     : Option Nat := none
  failIn : Bool := false
  /-- words 0 to 2 of the launch-queue record, or the spawning node (R312) -/
  words  : BitVec 192 := 0
  spawner : Option (Nat × Nat) := none
  deriving DecidableEq, Repr

/-- A node that has retired. -/
def Node.gone (n : Node) : Bool :=
  match n.state with
  | .retired | .failed => true
  | _ => false

/-- R270: nodes of a die that have not retired. -/
def Die.liveNodes (d : Die) : Nat :=
  (d.nodes.filter fun (_, n) => (n.map fun x => !x.gone).getD false).length

/-- R312: the place in HBM of the launch journal's next entry. -/
def Journal.next (j : Journal) : Nat := j.base + j.pos

/-- R270, R312: a full node table or a full launch journal: one whose next place still holds an entry that
has not been trimmed. -/
def Die.full (d : Die) : Bool :=
  65536 ≤ d.liveNodes || d.lj.size / 128 == 0 ||
    d.llog.any fun e => e.addr < d.lj.next + 128 && d.lj.next < e.addr + 128

/-- R266, R267 code 0x02: the launch record's own fields. -/
def lrOk (r : BitVec 512) : Bool :=
  !flag r 128 && lrHdr r % 64 == 0 && lrNpred r ≤ 4 &&
    (if lrJoin r then fld r 448 64 == 0
     else (List.range 4).all fun k => k < lrNpred r || fld r (384 + 32 * k) 32 == 0)

/-- R267 code 0x07: an address space that the submitter may name. -/
def State.spaceOk (s : State) (u : Sub) (r : BitVec 512) : Bool :=
  u.priv || (lrAsid r == u.asid && (s.dieAt u.die).roots.get none (lrAsid r).toNat == some (lrRoot r))

/-- Raising a rejection code unless a condition holds. -/
def accept (p : Bool) (code : Nat) : Except Nat Unit := if p then .ok () else .error code

/-- R267 steps 3 to 5: the first failure's code, or the job header and its declaration block, which an
empty node has not. -/
def State.checkLaunch (s : State) (u : Sub) (r : BitVec 512) :
    Except Nat (BitVec 512 × List (BitVec 128)) := do
  let d := s.dieAt u.die
  accept (lrOk r) 0x02
  accept (s.spaceOk u r) 0x07
  let empty := lrHdr r == 0
  let (h, l) ← if empty then .ok (0, []) else match s.readJob u.priv r with
    | some j => .ok j
    | none => .error 0x01
  if !empty then
    accept (headerOk h && declOk h l) 0x03
    accept (loopsOk (lrLoops r)) 0x04
    accept (!regionsMeet h l) 0x05
  accept (lrPlots r != 0 && lrPlots r &&& ~~~u.plots == 0) 0x06
  accept ((lrPreds r).all fun k => (d.nodes.get none k).any fun n => n.g == u.g) 0x08
  accept (!(lrJoin r || lrChild r) || u.priv) 0x09
  accept (!(lrJoin r && lrNpred r != 0) && (!lrChild r || u.child)) 0x09
  accept (!(u.spawn && d.full)) 0x0A
  .ok (h, l)

/-- R264, R267 code 0x0B: a launch-queue record. -/
def queueRecOk (r : BitVec 512) : Bool :=
  fld r 0 8 == 0xD0 && fld r 64 6 == 0 && fld r 144 48 == 0 && fld r 139 4 == 0 && fld r 192 320 == 0

/-- R264: USER, and the completion queue where CQEN is set. -/
def recUser (r : BitVec 512) : BitVec 32 := r.extractLsb' 32 32
@[inherit_doc recUser] def recCq (r : BitVec 512) : Option Nat := if flag r 143 then some (fld r 128 11) else none

end Sys2Proof.Machine
end

