-- ==== Sys2Proof/Machine/Graph.lean ====
section
/-! DEFINITION. Task graphs: journals (R271, R312), completion records (R282), accepted nodes (R268), the
ready pool (R273, R274), retirement and successors (R269), join counters (R272), and the end of a
graph (R280, R281). -/

namespace Sys2Proof.Machine

/-- The open graph of a launch queue (R265). -/
def State.openGraph (s : State) (die q : Nat) : GraphId := ⟨die, q, (s.lqAt die q).epoch⟩

/-- A graph that has not ended. -/
def State.isOpen (s : State) (g : GraphId) : Bool := (s.lqAt g.die g.q).epoch == g.epoch

/-- The bytes of a counter-journal entry (R271). -/
def JEnt.bytes (e : JEnt) : List Byte :=
  toBytes 16 (e.cause % 2 ^ 32 * 2 ^ 96 + e.seq % 2 ^ 32 * 2 ^ 64 + e.node % 2 ^ 32 * 2 ^ 32 +
    e.count % 65536 * 65536 + e.kind % 256 * 256)

/-- R271, R304: the counter-journal entry that stands at a place in HBM. -/
def State.jentAt (s : State) (addr : Nat) : JEnt :=
  let x := ofBytes (s.rd addr 16)
  ⟨addr, bits x 64 32, bits x 96 32, bits x 32 32, bits x 16 16, bits x 8 8⟩

/-- R271: an entry appended to a die's counter journal; it stands before the change does. -/
def State.journal (s : State) (die cause node count kind : Nat) : Except Fault State := do
  let d := s.dieAt die
  let cap := d.cj.size / 16
  let e : JEnt := ⟨d.cj.base + d.cj.pos, d.jseq.toNat, cause, node, count, kind⟩
  let s ← if cap = 0 then .ok s else s.devWrite e.addr e.bytes
  .ok (s.setDie die { d with
    jseq := d.jseq + 1, jlog := ((e :: d.jlog.filter (·.addr != e.addr)).take cap),
    cj := { d.cj with pos := (d.cj.pos + 16) % max 16 (16 * cap) } })

/-- The bytes of a launch-journal entry (R312): how its 128 bytes hold what the rule names is not given
(log 5). -/
def LEnt.bytes (e : LEnt) : List Byte :=
  toBytes 128 (Config.launchEntry e.node e.seq e.rec_ e.words ((e.spawner.map (·.2)).getD 0)).toNat

/-- R304, R312: a launch-journal entry as its place in HBM holds it: what bytes other than those written hold
is not given (log 5). -/
def State.lentAt (s : State) (e : LEnt) : Option LEnt :=
  let b := s.rd e.addr 128
  if b = e.bytes then some e
  else (Config.launchOf b).map fun (node, seq, r, words, by_) =>
    { e with node, seq, rec_ := r, words, spawner := e.spawner.map fun p => (p.1, by_) }

/-- R312: an entry appended to a die's launch journal, with its counter-journal SEQ to come. -/
def State.journalLaunch (s : State) (u : Sub) (node : Nat) (r : BitVec 512) (failIn : Bool) :
    Except Fault State := do
  let d := s.dieAt u.die
  let cap := d.lj.size / 128
  let e : LEnt := ⟨d.lj.next, node, d.jseq.toNat, r, u.words, u.spawner, u.g, failIn⟩
  let s ← s.devWrite e.addr e.bytes
  .ok (s.setDie u.die { d with
    llog := d.llog ++ [e], lj := { d.lj with pos := (d.lj.pos + 128) % max 128 (128 * cap) } })

/-- R282: the words of a completion record. -/
def completionRec (user : BitVec 32) (ty node code : Nat) (t : Word) : BitVec 512 :=
  .ofNat 512 (user.toNat * 2 ^ 32 + 4 * 256 + ty + node % 2 ^ 32 * 2 ^ 64 + code * 2 ^ 128 +
    t.toNat * 2 ^ 192)

/-- A queue of a die that takes records from the hardware (R171, R282). -/
def WQ.takes (q : WQ) : Bool := q.state == .active && !q.ringparse && !q.full

/-- A report to a die's Reeve (R171, R282). -/
def State.report (s : State) (die : Nat) (r : Report) : State :=
  let d := s.dieAt die
  s.setDie die { d with reeve := { d.reeve with reports := d.reeve.reports ++ [r] } }

/-- R282: a completion record committed to a queue, or its loss reported. -/
def State.sendCompletion (s : State) (die cq : Nat) (r : BitVec 512) : State :=
  let q := s.wqAt die cq
  if q.takes then
    (s.putQueue die cq { q with ents := q.ents ++ [.resv 0 0] }).commitAt die cq q.ents.length r true
  else s.report die (.completionLost cq)

/-- R273: a graph with a waiting instance stands in the order of its level. -/
def Die.join (d : Die) (level : Nat) (g : GraphId) : Die :=
  let l := d.rot.get [] level
  if l.contains g then d else { d with rot := d.rot.set [] level (l ++ [g]) }

/-- R273, R275: instances of a node enter a die's ready pool at a level. -/
def State.enterPool (s : State) (die n lo cnt level pool : Nat) : State :=
  match s.nodeAt die n with
  | none => s
  | some x =>
    let k := (s.dieAt pool).poolN
    let s := s.setNode die n { x with wait := x.wait ++ [⟨lo, cnt, level, s.mtime.toNat, pool, k⟩] }
    s.setDie pool { (s.dieAt pool).join level x.g with poolN := k + 1 }

/-- R268, R269: a node whose count is 0 becomes ready; one with a failed predecessor or without instances
will retire at once. The groups of a D-level launch wait until they are handed to their dies (R275). -/
def State.readyNode (s : State) (die n : Nat) : State :=
  match s.nodeAt die n with
  | none => s
  | some x =>
    let s := s.setNode die n { x with state := .ready }
    if x.failIn || x.total = 0 || hasD (lrLoops x.rec_) then s
    else s.enterPool die n 0 x.total (lrPrio x.rec_) die

/-- R268, R271, R312: an accepted record becomes a node; its number. -/
def State.acceptNode (s : State) (u : Sub) (r h : BitVec 512) (l : List (BitVec 128)) :
    Except Fault (Nat × State) := do
  let d := s.dieAt u.die
  let n := d.nextNode.toNat
  let preds := (lrPreds r).eraseDups
  let live := preds.filter fun k => (d.nodes.get none k).any fun x => !x.gone
  let failed := preds.any fun k => (d.nodes.get none k).any fun x => x.state == .failed
  let s ← s.journalLaunch u n r (u.failIn || failed)
  let s ← s.journal u.die n n live.length 1
  let x : Node :=
    { g := u.g, rec_ := r, hdr := h, decl := l, priv := u.priv, pred := live.length,
      failIn := u.failIn || failed, total := if lrHdr r = 0 then 0 else instCount (lrLoops r),
      join := if lrJoin r then some 1 else none, parent := u.parent, user := u.user, cq := u.cq }
  let d := s.dieAt u.die
  let s := s.setDie u.die { d with nextNode := d.nextNode + 1 }
  let s := s.setNode u.die n x
  let s := live.foldl (fun s k => match s.nodeAt u.die k with
    | some y => s.setNode u.die k { y with succs := y.succs ++ [n] }
    | none => s) s
  .ok (n, if live.isEmpty then s.readyNode u.die n else s)

/-- R272: a node's join counter changes. -/
def State.joinTo (s : State) (die n cause k : Nat) (kidFail : Bool) : Except Fault State := do
  let s ← s.journal die cause n k 5
  match s.nodeAt die n with
  | some x => .ok (s.setNode die n { x with join := some k, kidFail := x.kidFail || kidFail })
  | none => .ok s

/-- R272: the continuation of a node whose join counter has reached 0; a rejection is reported to the
queue its graph's end record would use. While the node table or the launch journal is full it waits
(R270, R312). -/
def State.continuation (s : State) (die : Nat) (x : Node) : Except Fault State :=
  let d := s.dieAt die
  if lrCont x.rec_ = 0 then .ok s
  else if d.full then .ok (s.setDie die { d with conts := d.conts ++ [x] })
  else
    let u : Sub := { die := die, g := x.g, priv := x.priv, asid := lrAsid x.rec_, plots := lrPlots x.rec_,
                     child := false, spawn := false, failIn := x.failed || x.failIn || x.kidFail }
    let got : Except Nat (BitVec 512 × BitVec 512 × List (BitVec 128)) :=
      match s.readAs (lrAsid x.rec_) (lrRoot x.rec_) x.priv (lrCont x.rec_) 64 with
      | none => .error 0x01
      | some b => do
        let r : BitVec 512 := .ofNat 512 (ofBytes b)
        let (h, l) ← s.checkLaunch u r
        .ok (r, h, l)
    match got with
    | .ok (r, h, l) => do .ok (← s.acceptNode u r h l).2
    | .error code =>
      match if s.isOpen x.g then (s.lqAt x.g.die x.g.q).lastCq else none with
      | some cq => .ok (s.sendCompletion x.g.die cq (completionRec 0 0xD4 0 code s.mtime))
      | none => .ok s

/-- R272: a join counter falls by 1; that of a die whose dispatch is stopped falls once it is rebuilt
(R303). -/
def State.joinDown (s : State) (die n cause : Nat) (kidFail : Bool) : Except Fault State :=
  let d := s.dieAt die
  if d.stopped then .ok (s.setDie die { d with downs := d.downs ++ [(n, cause, kidFail)] })
  else match s.nodeAt die n with
  | some x => match x.join with
    | some k => do
      let s ← s.joinTo die n cause (k - 1) kidFail
      if k = 1 then s.continuation die { x with kidFail := x.kidFail || kidFail } else .ok s
    | none => .ok s
  | none => .ok s

/-- R269: a successor's count falls by 1. -/
def State.predDown (s : State) (die n cause : Nat) (failed : Bool) : Except Fault State :=
  match s.nodeAt die n with
  | none => .ok s
  | some x => do
    let s ← s.journal die cause n (x.pred - 1) 2
    let s := s.setNode die n { x with pred := x.pred - 1, failIn := x.failIn || failed }
    .ok (if x.pred = 1 then s.readyNode die n else s)

/-- R269, R272, R282: a node retires. -/
def State.retireNode (s : State) (die n : Nat) : Except Fault State :=
  match s.nodeAt die n with
  | none => .ok s
  | some x => do
    let failed := x.failed || x.failIn
    let s ← s.journal die n n 0 (if failed then 4 else 3)
    let x := { x with state := if failed then .failed else .retired, failed := failed, wait := [] }
    let s := s.setNode die n x
    let q := s.lqAt x.g.die x.g.q
    let s := if s.isOpen x.g then s.setLq x.g.die x.g.q { q with retired := q.retired + 1 } else s
    let s := match x.cq with
      | some cq => s.sendCompletion x.g.die cq
          (completionRec x.user (if failed then 0xD5 else 0xD3) n 0 s.mtime)
      | none => s
    let s ← x.succs.foldlM (fun s k => s.predDown die k n failed) s
    let s ← s.joinDown die n n false
    match x.parent with
    | some (pd, p) => s.joinDown pd p n failed
    | none => .ok s

/-- R269: a ready node with nothing left to run. -/
def Node.spent (x : Node) : Bool :=
  x.state == .ready && (x.failIn || (x.done == x.total && x.wait.isEmpty))

/-- R269: nodes that can retire on a die whose dispatcher works, in increasing node number. -/
def State.sweepDie (die : Nat) : Nat → State → Except Fault State
  | 0, s => .ok s
  | k + 1, s =>
    let d := s.dieAt die
    match if d.stopped then none else d.nodes.find? fun e => e.2.any Node.spent with
    | some (n, _) => do State.sweepDie die k (← s.retireNode die n)
    | none => .ok s

/-- R280, R281: a graph ends: its end record, and the next record opens a new graph. Its retired nodes
and journal entries go (R312). -/
def State.endGraph (s : State) (die q : Nat) : State :=
  let g := s.openGraph die q
  let x := s.lqAt die q
  let s := match x.lastCq with
    | some cq => s.sendCompletion die cq (completionRec 0 0xD2 x.retired 0 s.mtime)
    | none => s
  let x := s.lqAt die q
  let s := s.setLq die q
    { x with epoch := x.epoch + 1, lastCq := none, retired := 0, opened := false, sample := none }
  { s with dies := s.dies.mapVals {} fun _ d =>
      { d with nodes := d.nodes.filter fun e => !e.2.any fun n => n.g == g && n.gone,
               llog := d.llog.filter fun e => e.g != g } }

/-- A node of a graph, on any die, that a test holds for. -/
def State.anyNode (s : State) (g : GraphId) (p : Nat → Node → Bool) : Bool :=
  s.dies.any fun (k, d) => d.nodes.any fun (_, n) => n.any fun x => x.g == g && p k x

/-- R281: a privileged graph that can end. -/
def State.privEnded (s : State) (die q : Nat) : Bool :=
  let x := s.lqAt die q
  x.opened && x.priv && (s.wqAt die q).ents.isEmpty &&
    !(s.anyNode (s.openGraph die q) fun _ n => !n.gone) &&
    !s.dies.any fun (k, d) => d.conts.any (·.g == s.openGraph die q) ||
      d.downs.any fun e => (s.nodeAt k e.1).any (·.g == s.openGraph die q)

/-- R272, R303: on a die whose dispatch works the join counters that waited fall, and the continuations that
wait are submitted again. -/
def State.submitWaiting (s : State) (die : Nat) : Except Fault State := do
  let d := s.dieAt die
  if d.stopped then .ok s
  else
    let s ← d.downs.foldlM (fun s (n, cause, failed) => s.joinDown die n cause failed)
      (s.setDie die { d with downs := [] })
    let d := s.dieAt die
    d.conts.foldlM (fun s x => s.continuation die x) (s.setDie die { d with conts := [] })

/-- Retirements (R269) on every die, and the continuations that find room (R272). -/
def State.sweep (s : State) : Except Fault State := do
  let s ← s.dies.foldlM (fun s (k, d) => State.sweepDie k (2 * d.nodes.length + 8) s) s
  s.dies.foldlM (fun s (k, _) => s.submitWaiting k) s

/-- R281: a launch queue's privileged graph ends as soon as it can. -/
def State.endIfDone (s : State) (die q : Nat) : State :=
  if !(s.dieAt die).stopped && s.privEnded die q then s.endGraph die q else s

/-- R269, R272: a die whose dispatcher works has a node that can retire, or a child's retirement or a continuation
that waits and need not. -/
def State.due (s : State) : Bool :=
  s.dies.any fun (_, d) => !d.stopped &&
    (d.nodes.any (fun e => e.2.any Node.spent) || !d.downs.isEmpty || (!d.conts.isEmpty && !d.full))

/-- Retirements and continuations, to at most `n` sweeps. -/
def State.sweeps : Nat → State → Except Fault State
  | 0, s => .ok s
  | n + 1, s => if s.due then do State.sweeps n (← s.sweep) else .ok s

/-- More sweeps than can follow one another: each retires a node that stands, or one that takes a place of a
launch journal, which it keeps until its graph ends (R270, R312). -/
def State.sweepMax (s : State) : Nat :=
  (s.dies.map fun (_, d) => d.nodes.length + d.downs.length + d.conts.length + d.lj.size / 128 + 1).sum

/-- R281: privileged graphs that can end do. -/
def State.ends (s : State) : State :=
  s.dies.foldl (fun s (k, d) => d.lq.foldl (fun s (q, _) => s.endIfDone k q) s) s

/-- Sweeps and ends of graphs, for at most `n` times that graphs end, which makes room for continuations. -/
def State.settleFor : Nat → State → Except Fault State
  | 0, s => .ok s
  | n + 1, s => do
    let s := (← State.sweeps s.sweepMax s).ends
    if s.due then State.settleFor n s else .ok s

/-- What follows at once from a dispatcher's event: retirements, continuations, and ends of privileged
graphs (R269, R272, R281); of those there are sixteen to a die at most. -/
def State.settleGraphs (s : State) : Except Fault State := s.settleFor (16 * 8 + 1)

/-- A result of the dispatcher as an outcome. -/
def outOf : Except Fault State → Out
  | .ok s => .next s
  | .error f => .fault f

/-- R263: the launch queue served next: the first with a deliverable record from the turn on. -/
def State.lqNext (s : State) (die : Nat) : Option Nat :=
  ((List.range 16).map fun k => ((s.dieAt die).lqTurn + k) % 16).find? fun q => (s.wqAt die q).deliverable

/-- R263 to R268: a record of a launch queue taken, checked and accepted or rejected. -/
def State.takeRecord (s : State) (die q : Nat) (r : BitVec 512) : Except Fault State :=
  let lq := s.lqAt die q
  let cq := recCq r
  let s := s.setLq die q { lq with opened := true, sample := none, lastCq := cq.or lq.lastCq }
  let asid := (s.wqAt die q).asid
  let u : Sub := { die := die, g := s.openGraph die q, priv := lq.priv, asid := asid, plots := lq.qplots,
                   child := false, spawn := false, user := recUser r, cq := cq,
                   words := r.extractLsb' 0 192 }
  let got : Except Nat (BitVec 512 × BitVec 512 × List (BitVec 128)) := do
    accept (queueRecOk r) 0x0B
    let root := (s.dieAt die).roots.get none asid.toNat
    match root.bind fun p => s.readAs asid p lq.priv (fld r 64 64) 64 with
    | none => .error 0x01
    | some b =>
      let l : BitVec 512 := .ofNat 512 (ofBytes b)
      let (h, rows) ← s.checkLaunch u l
      .ok (l, h, rows)
  match got with
  | .ok (l, h, rows) => do .ok (← s.acceptNode u l h rows).2
  | .error code => match cq with
    | some c => .ok (s.sendCompletion die c (completionRec u.user 0xD4 0 code s.mtime))
    | none => .ok s

/-- The dispatcher takes a record from a launch queue (R263, R267). It takes none while its node table or
launch journal is full (R270, R312) or dispatch is stopped (R303). -/
def execLaunchQueueRecord (die q : Nat) (s : State) : Out :=
  let d := s.dieAt die
  if d.stopped || d.full || s.lqNext die != some q then .next s
  else match s.popQueue die q with
    | none => .next s
    | some (_, r, s) =>
      let d := s.dieAt die
      let s := s.setDie die { d with lqTurn := (q + 1) % 16 }
      outOf do (← s.takeRecord die q r).settleGraphs

/-- R157, R267: a record submitted by the executing instance: its node number, or the code. -/
def State.spawn (s : State) (r : Option (BitVec 512)) : Except Fault (Word × State) :=
  let i := s.inst
  let die := dieOf s.core
  let parent := s.nodeAt i.launch.die i.launch.node
  let g := (parent.map (·.g)).getD ⟨i.launch.qdie, i.launch.q, 0⟩
  let no (code : Nat) : Word := .ofNat 64 (2 ^ 63 + code)
  match r with
  | none => .ok (no 0x01, s)
  | some r =>
    let child := (parent.bind (·.join)).isSome
    let me := (i.launch.die, i.launch.node)
    let u : Sub := { die := die, g := g, priv := i.launch.priv, asid := i.launch.asid,
                     plots := i.launch.plots, child := child, spawn := true, spawner := some me,
                     parent := if lrChild r then some me else none }
    match s.checkLaunch u r with
    | .error code => .ok (no code, s)
    | .ok (h, l) => do
      let (n, s) ← s.acceptNode u r h l
      let s ← match u.parent, parent with
        | some _, some p => s.joinTo me.1 me.2 me.2 ((p.join.getD 0) + 1) false
        | _, _ => .ok s
      let s ← s.external.settleGraphs
      .ok (.ofNat 64 n, s)

/-- R303: a record whose acceptance would change the join counter of a node on a die whose dispatch is
stopped. -/
def State.spawnStops (s : State) (r : Option (BitVec 512)) : Bool :=
  s.die.stopped || (r.any lrChild && (s.dieAt s.inst.launch.die).stopped)

/-- `SPAWN` (R157): a release at `.mod`. While dispatch on the die is stopped, or on that of the spawning
node where the record names a child of it (R303), it stalls. -/
def execSpawn (h : Head) (d : Dst) (a : Src) (s : State) : Out :=
  issue (.spawn h d a) s fun s =>
    let ad := s.val h .i64 a
    .try_ s (need (ad.toNat % 64 == 0) .align ad) fun _ =>
    released s (
      if s.die.stopped then .hold s
      else
        .try_ s (match s.at_ .read ad.toNat 64 with
          | .ok l => .ok (some (BitVec.ofNat 512 (s.loadVal s.stream l)))
          | .error t => if t.cause = .eccUncorr then .error t else .ok none) fun r =>
        if s.spawnStops r then .hold s
        else match s.spawn r with
          | .ok (x, s) => .done (s.result d x)
          | .error f => .broken f)

/-- R280: a stream that is stalled in a wait or a `TBWAIT`. -/
def Inst.waits_ (i : Inst) (st : Stream) : Bool :=
  i.waits.any (fun w => w.1 == .instr st) || (i.streams.get st).tbwait

/-- R280: C is stalled in a blocking `WQPOP` or in `WAITI`. -/
def State.popping (s : State) (core : Nat) (i : Inst) : Bool :=
  i.waiti.isSome || (s.dieAt (dieOf core)).wq.any fun (_, q) => q.pops.contains (core, i.uid, .C)

/-- Its engine queues, shuttle queue and time-sorted buffer are empty, and no copy runs (R280, R23). -/
def Inst.quietWork (i : Inst) : Bool :=
  [Stream.C, .L, .M, .V, .S].all (fun st => (i.streams.get st).eq.isEmpty) && i.shq.isEmpty && i.timed.isEmpty && i.copies.isEmpty

/-- R280: an idle resident instance. -/
def State.residentIdle (s : State) (core : Nat) (i : Inst) : Bool :=
  i.phase.live && s.popping core i && i.quietWork &&
    [Stream.L, .M, .V, .S].all fun st =>
      let x := i.streams.get st
      !x.active || x.rdv || i.waits_ st

/-- Instances of a launch that stand on cores. -/
def State.instsOf (s : State) (die n : Nat) : List (Nat × Inst) :=
  s.cores.flatMap fun (k, c) =>
    ((c.main.toList ++ c.pre.toList).filter fun i => i.launch.die == die && i.launch.node == n).map (k, ·)

/-- R280: the sums of SENT and RECV over the dies on which a graph has had a node. -/
def State.sums (s : State) (g : GraphId) (asid : Nat) : Nat × Nat :=
  let dies := s.dies.filter fun (k, d) => k == g.die || d.nodes.any fun (_, n) => n.any (·.g == g)
  ((dies.map fun (_, d) => d.sent.get 0 asid).sum, (dies.map fun (_, d) => d.recv.get 0 asid).sum)

/-- R280: an idle sample of a graph. -/
def State.graphIdle (s : State) (die q : Nat) : Bool :=
  let g := s.openGraph die q
  let (a, b) := s.sums g (s.wqAt die q).asid.toNat
  (s.wqAt die q).ents.isEmpty && a == b &&
    s.dies.all fun (k, d) => d.nodes.all fun (n, x) => x.all fun x =>
      x.g != g || x.gone ||
        (flag x.hdr 456 && x.state == .ready && x.wait.isEmpty && x.placed == x.total &&
          (s.instsOf k n).all fun (c, i) => s.residentIdle c i)

/-- R280: the home dispatcher samples a graph that is not privileged. The first idle sample is kept; one
at least 256 ns later that is idle with the same sums ends the graph. -/
def execGraphEndSample (die q : Nat) (s : State) : Out :=
  let x := s.lqAt die q
  if x.priv || !x.opened || (s.dieAt die).stopped || 16 ≤ q then .next s
  else if !s.graphIdle die q then .next (s.setLq die q { x with sample := none })
  else
    let (a, b) := s.sums (s.openGraph die q) (s.wqAt die q).asid.toNat
    let now := s.mtime.toNat
    match x.sample with
    | some (t, a', b') =>
      if now < t + 256 then .next s
      else if a = a' ∧ b = b' then outOf (s.endGraph die q).settleGraphs
      else .next (s.setLq die q { x with sample := some (now, a, b) })
    | none => .next (s.setLq die q { x with sample := some (now, a, b) })

end Sys2Proof.Machine
end

