-- ==== Sys2Proof/Machine/Firmware.lean ====
section
/-! DEFINITION. Module firmware, Reeves and plots: images and records (R315, R316), management sessions
(R314), bring-up (R323), reloads (R317), budgets and partitions (R277, R319), and power and heat
(R322). -/

namespace Sys2Proof.Machine

/-- KIND of an image (R315). -/
def kindNo : ImgKind → Nat
  | .bootLoader => 1 | .moduleFw => 2 | .reeve => 3 | .supervisor => 4 | .config => 5 | .osLoader => 6

/-- The KINDs (R315). -/
def imgKinds : List ImgKind := [.bootLoader, .moduleFw, .reeve, .supervisor, .config, .osLoader]

/-- R315: the key pair KEYIDX names. -/
def keyPair (r : Option CfgRecord) (k : Nat) : Option Nat :=
  if k = 0 then some Config.rootKeyPair else r.bind fun r => if k ≤ 4 then r.keys[k - 1]? else none

/-- R315: the record's minimum VERSION for a KIND. -/
def minVersion (r : Option CfgRecord) (k : ImgKind) : Nat :=
  (r.map fun r => r.minVersion.getD (kindNo k - 1) 0).getD 0

/-- R315: `n` bytes of an image from an offset on. -/
def imgField (i : Image) (off n : Nat) : List Byte := (i.bytes.drop off).take n
/-- R315: the fields of an image that are numbers. -/
def imgNum (i : Image) (off n : Nat) : Nat := ofBytes (imgField i off n)
@[inherit_doc imgNum] def imgKind (i : Image) : Nat := imgNum i 4 2
@[inherit_doc imgNum] def imgKeyIdx (i : Image) : Nat := imgNum i 6 2
@[inherit_doc imgNum] def imgVersion (i : Image) : Nat := imgNum i 8 8
@[inherit_doc imgNum] def imgLength (i : Image) : Nat := imgNum i 16 8
@[inherit_doc imgNum] def imgLoadAddr (i : Image) : Nat := imgNum i 24 8
@[inherit_doc imgNum] def imgLmsLen (i : Image) : Nat := imgNum i 176 4
/-- R315: the payload, which begins at a multiple of 64. -/
def imgPayload (i : Image) : List Byte := imgField i ((192 + imgLmsLen i + 63) / 64 * 64) (imgLength i)

/-- R315: MAGIC, the fixed fields, and a payload of the length given. -/
def imgFormed (i : Image) : Bool :=
  imgNum i 0 4 == 0x314D444E && imgLmsLen i == 2828 && imgNum i 180 12 == 0 && (imgPayload i).length == imgLength i

/-- R315: an image that is accepted where a KIND is expected: both signatures are over its bytes 0 to 79. -/
def imageOk (r : Option CfgRecord) (k : ImgKind) (i : Image) : Bool :=
  imgFormed i && imgKind i == kindNo k && (k != .config || imgKeyIdx i == 0) && minVersion r k ≤ imgVersion i &&
    Config.sha384 (imgPayload i) == imgField i 32 48 &&
    match keyPair r (imgKeyIdx i) with
    | some p => Config.ecdsaVerifies p (imgField i 0 80) (imgField i 80 96) &&
        Config.lmsVerifies p (imgField i 0 80) (imgField i 192 (imgLmsLen i))
    | none => false

/-- A slot of the configuration flash (R315). -/
def Firmware.slot (f : Firmware) (k : ImgKind) (n : Nat) : Option Image := f.flash.get none (2 * kindNo k + n)

/-- R315: the image of a KIND that is loaded: that of the first slot, or of the other one. -/
def Firmware.load (f : Firmware) (k : ImgKind) : Option Image :=
  ([0, 1].filterMap (f.slot k)).find? (imageOk f.record k)

/-- R316: what a record can hold. -/
def recordOk (r : CfgRecord) : Bool :=
  r.moduleNo < 1024 && r.keys.length ≤ 4 && r.minVersion.length ≤ 6 && r.anchors.length ≤ 4 &&
    r.revoked.length ≤ 256 && r.partition.length ≤ 64

/-- R316: the record the boot ROM accepts: its SEQ is not below the flash's counter. No record is in force yet,
so its image is held to no minimum VERSION (DESIGN CHOICE, log 75). -/
def Firmware.bootRecord (f : Firmware) : Option CfgRecord :=
  ([0, 1].filterMap (f.slot .config)).findSome? fun i =>
    if imageOk none .config i then
      (Config.recordOf (imgPayload i)).filter fun r => recordOk r && f.seqCtr ≤ r.seq
    else none

/-- R1, R317: a policy processor whose memory is zeroed and loaded with an image's payload at its LOADADDR,
where it starts. That this memory lies at address 0 of the processor, and that payload bytes past its end are
dropped: DESIGN CHOICE (log 40). -/
def Cpu32.loaded (size : Nat) (i : Image) : Cpu32 :=
  { pc := .ofNat 32 (imgLoadAddr i),
    mem := SMap.setList 0 [] (imgLoadAddr i) ((imgPayload i).take (size - imgLoadAddr i)) }

/-- R1: the memories of a Reeve and of a plot supervisor. -/
def reeveBytes : Nat := 256 * 1024
@[inherit_doc reeveBytes] def supervisorBytes : Nat := 64 * 1024

/-- A time within its range. -/
def within (lo hi x : Nat) : Nat := max lo (min hi x)

/-- R319: the plots of a partition. -/
def State.plotsOf (s : State) (part : Nat) : Word :=
  .ofNat 64 (((List.range 64).filter fun k => (s.plotAt k).part == some part).map (2 ^ ·)).sum

/-- The settings of a launch queue replaced, its QPLOTS within its partition's plots (R319), its timeouts
within the ranges of R318, its graph kept (R317). -/
def LaunchQ.given (x p : LaunchQ) (plots : Word) : LaunchQ :=
  { x with on := true, priv := p.priv, part := p.part, qplots := p.qplots &&& plots, asid := p.asid,
           tInst := within 1000000 3600000000000 p.tInst, tStall := within 10000 1000000000 p.tStall,
           tResv := within 1000 10000000000 p.tResv, tSlice := within 100 100000 p.tSlice }

/-- A journal whose ring firmware sets (R271, R312): a new ring begins at its start. -/
def Journal.given (x p : Journal) : Journal := if x.base = p.base ∧ x.size = p.size then x else { p with pos := 0 }

/-- R317, R323: a die's Reeve receives firmware's policy. -/
def State.givePolicy (s : State) (die : Nat) : State :=
  let p := s.fw.policy.get {} die
  let d := s.dieAt die
  let s := s.setDie die { d with
    age := p.age, roots := p.roots, reeve := { d.reeve with slices := p.slices.mapVals 1000 fun _ t => within 100 100000 t },
    cj := d.cj.given p.cj, lj := d.lj.given p.lj }
  let s := p.queues.foldl (fun s (q, _, x) => s.setLq die q ((s.lqAt die q).given x (s.plotsOf x.part))) s
  p.budgets.foldl (fun s (k, b) => s.setPlot k { s.plotAt k with budget := min 12 b }) s

/-- R263: a Reeve creates its die's launch queues. -/
def State.createLaunchQueues (s : State) (die : Nat) : State :=
  (s.fw.policy.get {} die).queues.foldl (fun s (q, d, _) =>
    match (s.wqAt die q).create q d with
    | some w => if q < 16 then (s.putQueue die q w).freshQueue die q else s
    | none => s) s

/-- Firmware changes a die's policy while its Reeve works (R263, R267, R318): what it names is set, and
launch queues it adds are created. -/
def State.newPolicy (s : State) (die : Nat) (p : Policy) : State :=
  if 8 ≤ die || !(s.dieAt die).reeve.up then s
  else
    let s := { s with fw := { s.fw with policy := s.fw.policy.set {} die p } }
    (s.givePolicy die).createLaunchQueues die

/-- Every die of a list changed. -/
def State.eachDie (s : State) (f : State → Nat → State) : State := (List.range 8).foldl f s

/-- R323: software loaded into HBM at its image's LOADADDR, and the harts started there in a mode. -/
def State.startHarts (s : State) (i : Image) (m : HMode) : State :=
  let s := if imgLoadAddr i + imgLength i ≤ hbmEnd then s.wr (imgLoadAddr i) (imgPayload i) else s
  let harts := (List.range 64).foldl (fun h k =>
    let x := SMap.get {} h k
    SMap.set {} h k { x with cpu := { x.cpu with mode := m, pc := .ofNat 64 (imgLoadAddr i) } }) s.harts
  { s with harts }

/-- R283, R319: a plot passes to an owner: its budget is 0, and a supervisor that works clears the counters
and reports ready; one that is halted does so when it returns. -/
def Plot.passed (p : Plot) (part : Option Nat) : Plot :=
  { p with part, budget := 0, perf := if p.supUp then [] else p.perf, ready := p.supUp }

/-- R323: a step of bring-up: the state after it, and whether it has succeeded. -/
def State.bringStep (s : State) : State × Bool :=
  let f := s.fw
  match f.stage with
  | 0 => (s, f.powered && f.coolant)
  | 1 => match f.bootRecord with
    | some r =>
      let f := { f with record := some r, seqCtr := r.seq, clock := max f.clock r.issueTime,
                        identity := some (Config.identityKey, r.identityCert) }
      ({ s with fw := f }, (f.load .bootLoader).isSome)
    | none => (s, false)
  | 2 =>
    let s := { s with fw := { f with trained := true } }
    match f.load .moduleFw with
    | some i => (s.startHarts i .machine, true)
    | none => (s, false)
  | 3 => match f.load .reeve, f.load .supervisor with
    | some i, some j =>
      let s := s.eachDie fun s k => s.setDie k { s.dieAt k with
        wq := [], reeve := { (s.dieAt k).reeve with up := true, beatNs := 0, cpu := .loaded reeveBytes i } }
      ((List.range 64).foldl (fun s k =>
        s.setPlot k { s.plotAt k with supUp := true, sup := .loaded supervisorBytes j }) s, true)
    | _, _ => (s, false)
  | 4 =>
    let part (k : Nat) : Option Nat := (f.record.bind fun r => r.partition[k]?).filter (· < 64)
    let s := (List.range 64).foldl (fun s k => s.setPlot k ((s.plotAt k).passed (part k))) s
    (s.eachDie fun s k => (s.givePolicy k).createLaunchQueues k, true)
  | 5 => match f.load .osLoader with
    | some i => (s.startHarts i .supervisor, true)
    | none => (s, false)
  | _ => (s, true)

/-- The next step of bring-up (R323); a failure holds the module at the step and is reported. -/
def execBringUp (s : State) : Out :=
  if 6 ≤ s.fw.stage then .next s
  else
    let (s, ok) := s.bringStep
    .next { s with fw := if ok then { s.fw with stage := s.fw.stage + 1 }
                         else { s.fw with failures := s.fw.failures ++ [.bringUp (s.fw.stage + 1)] } }

/-- R303, R317: a Reeve halts: dispatch on its die stops until the die is rebuilt. -/
def Die.reeveHalted (d : Die) : Die := { d with stopped := true, reeve := { d.reeve with up := false, fresh := false } }

/-- R317: a heartbeat missing for 10 ms is a halt. -/
def execReeveHeartbeatTimeout (die : Nat) (s : State) : Out :=
  let d := s.dieAt die
  if d.reeve.up && 10000000 ≤ d.reeve.beatNs then .next (s.setDie die d.reeveHalted) else .next s

/-- R303, R317: on a halt of a Reeve, or an error in dispatcher state, its image is verified and loaded, its
memory zeroed, its policy given; module firmware has loaded Reeves by then (R323). -/
def execReeveReload (die : Nat) (s : State) : Out :=
  let d := s.dieAt die
  if s.fw.stage < 4 || (d.reeve.up && (!d.stopped || d.reeve.fresh)) then .next s
  else match s.fw.load .reeve with
    | some i =>
      .next ((s.setDie die { d with reeve := { up := true, fresh := true, cpu := .loaded reeveBytes i } }).givePolicy die)
    | none => .next s

/-- R317, R323: a halted plot supervisor is reloaded; it then does what waited for it (R319). -/
def execSupervisorReload (plot : Nat) (s : State) : Out :=
  let p := s.plotAt plot
  match p.supUp || s.fw.stage < 4, s.fw.load .supervisor with
  | false, some i =>
    .next (s.setPlot plot { p with supUp := true, sup := .loaded supervisorBytes i, ready := true,
                                   perf := if p.ready then p.perf else [] })
  | _, _ => .next s

/-- The Reeve sets a plot's draught budget (R277). -/
def execDraughtBudgetSet (plot budget : Nat) (s : State) : Out :=
  if plot < 64 && budget ≤ 12 && (s.dieAt (plot / 8)).reeve.up then
    .next (s.setPlot plot { s.plotAt plot with budget := budget })
  else .next s

/-- A plot that holds no instance (R319). -/
def State.plotEmpty (s : State) (plot : Nat) : Bool :=
  (List.range 12).all fun k =>
    let c := s.coreAt (12 * plot + k)
    c.main.isNone && c.pre.isNone

/-- R319: a launch queue of another partition loses a plot. -/
def LaunchQ.losePlot (x : LaunchQ) (plot : Nat) (part : Option Nat) : LaunchQ :=
  if part = some x.part then x else { x with qplots := x.qplots &&& ~~~(.ofNat 64 (2 ^ plot)) }

/-- A plot passes to a partition, or to none (R319): storage zeroed, budget 0, and the supervisor clears
the counters and reports ready. No queue of another partition names it any longer. -/
def execPlotReassign (plot partition : Nat) (s : State) : Out :=
  if 64 ≤ plot ∨ !s.hartsRun ∨ !s.plotEmpty plot then .next s
  else
    let s := (List.range 12).foldl (fun s k =>
      s.setCore (12 * plot + k) { s.coreAt (12 * plot + k) with left := {}, owner := none }) s
    let part := if partition < 64 then some partition else none
    let s := s.setPlot plot ((s.plotAt plot).passed part)
    .next { s with dies := s.dies.mapVals {} fun _ d =>
      { d with lq := d.lq.mapVals {} fun _ x => x.losePlot plot part } }

/-- R314: a certificate that nothing refuses, signed by a key. -/
def certOk (r : CfgRecord) (clock : Nat) (c : Cert) (key : Nat) : Bool :=
  !r.revoked.contains c.serial && c.notBefore ≤ clock && clock ≤ c.notAfter && c.issuerKey == key &&
    Config.ecdsaVerifies key c.body c.sig

/-- R314: a chain from the peer's certificate up to an anchor. -/
def chainOk (r : CfgRecord) (clock : Nat) : List Cert → Bool
  | [] => false
  | [c] => r.anchors.any fun a => certOk r clock c a
  | c :: d :: t => certOk r clock c d.key && chainOk r clock (d :: t)

/-- R314: an offer that module firmware accepts. The handshake's own signature is judged over the
certificate's bytes: its transcript is outside the model (log 40). -/
def offerOk (r : CfgRecord) (clock : Nat) (o : Offer) : Bool :=
  o.tls13 && o.suiteOk && o.groupOk && o.schemeOk && o.chain.length ≤ 3 && chainOk r clock o.chain &&
    match o.chain with
    | c :: _ => Config.ecdsaVerifies c.key c.body o.proof
    | [] => false

/-- A management session is opened (R314): the module presents its identity key with Ndomon's certificate
over it. -/
def execMgmtSessionOpen (o : Offer) (s : State) : Out :=
  let f := s.fw
  match f.record, f.identity with
  | some r, some (k, c) =>
    if 3 ≤ f.stage && offerOk r f.clock o then
      .next { s with fw := { f with sessions := f.sessions ++ [⟨f.nextSess, k, c⟩], nextSess := f.nextSess + 1 } }
    else .next s
  | _, _ => .next s

/-- A session that is open. -/
def Firmware.open_ (f : Firmware) (sess : Nat) : Bool := f.sessions.any (·.id == sess)

/-- An operation over an open session (R314). -/
def State.session (s : State) (sess : Nat) (f : Firmware → State) : Out :=
  if s.fw.open_ sess then .next (f s.fw) else .next s

/-- R314: module firmware's clock set over a session, to no time before the record's issue. -/
def State.setClock (s : State) (sess t : Nat) : State :=
  let f := s.fw
  if f.open_ sess then
    { s with fw := { f with clock := max t ((f.record.map (·.issueTime)).getD 0), clockNs := 0 } }
  else s

/-- An image or record is updated (R314, R315): accepted, it stands in its slot for the next load. -/
def execImageUpdate (sess slot : Nat) (img : Image) (s : State) : Out :=
  s.session sess fun f =>
    if slot < 2 && imgKinds.any fun k => imageOk f.record k img then
      { s with fw := { f with flash := f.flash.set none (2 * imgKind img + slot) (some img) } }
    else s

/-- R322, R314: everything volatile goes; the flash, MTIME and the sessions stay. -/
def State.dropped (s : State) : State :=
  { agenda := s.agenda, core := s.core, stream := s.stream, free := s.free, nextUid := s.nextUid,
    mtime := s.mtime, peers := s.peers,
    fw := { s.fw with stage := 0, record := none, trained := false, identity := none, shares := [] } }

/-- Power and reset over a session (R314). -/
def execPowerReset (sess : Nat) (op : PowerOp) (s : State) : Out :=
  s.session sess fun f =>
    let powered (b : Bool) (s : State) : State := { s with fw := { s.fw with powered := b } }
    match op with
    | .powerOff => powered false s.dropped
    | .powerOn => if f.powered then s else powered true s.dropped
    | .reset => s.dropped

/-- Telemetry is returned over a session (R314). -/
def execTelemetry (sess : Nat) (s : State) : Out :=
  s.session sess fun f =>
    { s.nextFree with fw := { f with outbox := f.outbox ++ [Config.telemetryBytes s.free] } }

/-- The console of the operating system (R314): input for it, and the output that has come from it. -/
def execConsole (sess : Nat) (input : List Byte) (s : State) : Out :=
  s.session sess fun f =>
    { s with fw := { f with conIn := f.conIn ++ input, conOut := [],
                            outbox := if f.conOut = [] then f.outbox else f.outbox ++ [f.conOut] } }

/-- Above 95 °C the Reeve lowers its plots' budgets (R322). -/
def execThermalThrottle (die temp : Nat) (budgets : List Nat) (s : State) : Out :=
  if 95 < temp && (s.dieAt die).reeve.up then
    .next ((List.range 8).foldl (fun s k =>
      let p := s.plotAt (8 * die + k)
      s.setPlot (8 * die + k) { p with budget := min p.budget (budgets.getD k p.budget) }) s)
  else .next s

/-- At 110 °C module firmware powers the module down (R322). -/
def execThermalShutdown (temp : Nat) (s : State) : Out :=
  if 110 ≤ temp then
    let s := s.dropped
    .next { s with fw := { s.fw with powered := false } }
  else .next s

/-- A module without coolant flow is held in reset (R322). -/
def execCoolantLoss (s : State) : Out :=
  let s := s.dropped
  .next { s with fw := { s.fw with coolant := false } }

/-- R322: module firmware divides the power budget of the compute dies among them, in watts. -/
def State.powerShares (s : State) (w : List Nat) : State :=
  if w.length = 8 ∧ w.sum ≤ 8400 ∧ 3 ≤ s.fw.stage then { s with fw := { s.fw with shares := w } } else s

/-- R322: coolant flows again. -/
def State.coolantFlow (s : State) : State := { s with fw := { s.fw with coolant := true } }

/-- A flit on a module port (R320): one that fails its CRC is sent again; a good one is a heartbeat, and a
write it carries, of at most its 64 bytes, lands in a writable export (R301, R313). -/
def execLinkFlit (port : Nat) (crcOk : Bool) (load : FlitLoad) (s : State) : Out :=
  let p := s.ports.get {} port
  let put (p : ModPort) : State := { s with ports := s.ports.set {} port p }
  if 16 ≤ port ∨ !p.up then .next s
  else if !crcOk then .next (put { p with retries := p.retries + 1 })
  else
    let s := put { p with silentNs := 0 }
    match load with
    | .idle => .next s
    | .write n off b =>
      match s.exports.get none n with
      | some e =>
        if e.valid && e.writable && b.length ≤ 64 && off + b.length ≤ e.length &&
            !(s.peers.get {} p.peer).fenced then
          outOf (s.devWrite (e.base + off) b)
        else .next s
      | none => .next s

/-- A link is declared down after 1 ms without heartbeats (R321). -/
def execLinkDown (port : Nat) (s : State) : Out :=
  let p := s.ports.get {} port
  if p.up && 1000000 ≤ p.silentNs then .next { s with ports := s.ports.set {} port { p with up := false } }
  else .next s

/-- A port brings its link up once module firmware has brought up the ports (R323), unless it finds its own
module's number across it (R320). -/
def execLinkUp (port peer : Nat) (s : State) : Out :=
  if 16 ≤ port ∨ 1024 ≤ peer ∨ peer = s.moduleNo ∨ s.fw.stage < 5 then .next s
  else .next { s with ports := s.ports.set {} port { up := true, peer := peer } }

/-- R320: a flit sent on a port failed its CRC at the other end and is sent again. -/
def State.linkResend (s : State) (port : Nat) : State :=
  let p := s.ports.get {} port
  if p.up then { s with ports := s.ports.set {} port { p with resent := p.resent + 1 } } else s

/-- R320: a module across a link that is up. -/
def State.joined (s : State) (module : Nat) : Bool := s.ports.any fun (_, q) => q.up && q.peer == module

/-- R320: how far the MTIMEs of the modules joined with one are ahead of this module's, this one's own among
them. -/
def State.skewsBut (s : State) (module : Nat) : List Int :=
  0 :: (s.peers.filter fun e => e.1 != module && s.joined e.1).map (·.2.skew)

/-- R320: at most 25 ns from each of some MTIMEs. -/
def nearAll (x : Int) (l : List Int) : Bool := l.all fun y => (x - y).natAbs ≤ 25

/-- R320: the MTIME of another module goes forward: that of a joined one no farther than 25 ns from any other;
one that is not joined keeps a time of its own. -/
def State.peerSkew (s : State) (module : Nat) (ns : Int) : State :=
  let p := s.peers.get {} module
  if 1024 ≤ module then s
  else if !s.joined module || (p.skew ≤ ns && nearAll ns (s.skewsBut module)) then
    { s with peers := s.peers.set {} module { p with skew := ns } }
  else s

/-- R320: a joined module while `ns` of time pass: its clock may fall behind by no more than that, for it never
runs backward; within 25 ns of the others it drifts, and else it converges, by an amount the spec leaves open
(log 57). -/
def State.slewPeer (ns : Nat) (s : State) (module : Nat) : State :=
  let p := s.peers.get {} module
  let others := s.skewsBut module
  let drift := p.skew - (Config.freeNat s.free % (ns + 1) : Nat)
  let step : Nat := min p.skew.natAbs (if ns = 0 then 0 else 1 + Config.freeNat s.free % ns)
  let skew := if nearAll p.skew others then (if nearAll drift others then drift else p.skew)
    else if 0 < p.skew then p.skew - step else p.skew + step
  { s.nextFree with peers := s.peers.set {} module { p with skew } }

/-- R313, R320: an entry of another module's export table, as this module's links bring it. -/
def State.peerExport (s : State) (module n : Nat) (e : Option ExportEnt) : State :=
  if 1024 ≤ n ∨ 1024 ≤ module ∨ module = s.moduleNo ∨ !(s.ports.any fun (_, p) => p.up) then s
  else
    let p := s.peers.get {} module
    { s with peers := s.peers.set {} module { p with exports := p.exports.set none n e } }

/-- A module declared failed is fenced (R321). -/
def execModuleFence (module : Nat) (s : State) : Out :=
  if s.hartsRun && module < 1024 then
    .next { s with peers := s.peers.set {} module { s.peers.get {} module with fenced := true } }
  else .next s

/-- R313: an entry that the export table can hold. -/
def exportEntOk (n : Nat) (e : ExportEnt) : Bool :=
  n < 1024 && e.base % 4096 == 0 && (e.asids.map fun l => decide (l.length ≤ 4)).getD true

/-- R308, R313: 64 bytes of the export table, and the entry they hold. -/
def State.exportPut (s : State) (n : Nat) (b : BitVec 512) (e : Option ExportEnt) : State :=
  { s with exports := s.exports.set none n e, exportRaw := s.exportRaw.set 0 n b }

/-- Module firmware writes an export-table entry (R313). -/
def execExportTableWrite (n : Nat) (e : ExportEnt) (s : State) : Out :=
  if s.hartsRun && exportEntOk n e then .next (s.exportPut n (Config.exportBytes (some e)) (some e)) else .next s

end Sys2Proof.Machine
end

