-- ==== Sys2Proof/Machine/Loom.lean ====
section
/-! DEFINITION. The Loom: `WEAVE` at issue (R238 to R240), its steps (R234 to R236, R241 to R246) and the
arithmetic inside them (R79 to R82). -/

namespace Sys2Proof.Machine

/-- The pitch operand (R239). -/
structure Pitch where
  pa  : Nat
  pb  : Nat
  mdb : Nat
  deriving DecidableEq, Repr

/-- R239. -/
def Pitch.of (x : Word) : Pitch := ⟨fld x 0 24, fld x 24 24, fld x 48 10⟩

/-- R238, R240: the checks of a `WEAVE` at issue. -/
def State.weaveOk (s : State) (f : Fur) (slot : Nat) (sp raw : Bool) (pitch : Word) : T Unit := do
  let no (p : Bool) : T Unit := need p .access (.ofNat 64 slot)
  let k := fKind f
  let p := Pitch.of pitch
  need (s.self.held s.inst) .draught 0
  no ([0, 1].all fun w => k w == .global || k w == .local_ || k w == .granary || (k w).isRing)
  no (k 2 == (if raw then .unused else .acc))
  no (fOper f == 0 && !fReserved f && [0, 1, 2].all fun w => (k w).targets || fTarget f w == 0)
  no ([0, 1].all fun w => !(k w).isRing || fTarget f w < s.inst.rings.length)
  need (p.pa % 16 == 0 && p.pb % 16 == 0 && fld pitch 58 6 == 0 && (sp || p.mdb == 0)) .access pitch

/-- R237: the tiles window 2 names at any of its points. -/
def weaveTiles (f : Fur) : List Nat :=
  if fPoints f = 0 then []
  else (List.range 768).filter fun (t : Nat) =>
    nestHits 1 (4096 * t) (4096 * t + 4096)
      ((List.range 6).map fun k => (fBound f k, fStride f 2 k)) (fBase f 2)

/-- A command handed to the Loom (R233): its operand values and the tiles it will lock (R88). -/
def loomIssue (i : Instr) (op : CmdOp) (vals : List Word) (f : Fur) (tiles : List Nat) (s : State) : Res :=
  if 32 ≤ s.str.cmds then .hold s
  else
    let c := s.command i op vals f (s.inst.resolve f)
    .done (s.enqueue { c with written := tiles } f)

/-- `WEAVE` (R233, R238 to R240). -/
def execWeave (h : Head) (sp reed : Bool) (pair : Pair) (f : Fin 64) (b : Src) (acc raw : Bool)
    (s : State) : Out :=
  issueCmd (.weave h sp reed pair f b acc raw) s fun s =>
    let fur := s.inst.furrow f
    let pitch := s.val h .i64 b
    .try_ s (s.weaveOk fur f sp raw pitch) fun _ =>
      loomIssue (.weave h sp reed pair f b acc raw) (.weave sp reed pair pitch acc raw)
        [.ofNat 64 f.val, pitch, 0, 0] fur (if raw then [] else weaveTiles fur) s

/-- A `WEAVE` in progress: what its instruction and snapshot say. -/
structure Weave where
  c    : Cmd
  sp   : Bool
  reed : Bool
  pair : Pair
  p    : Pitch
  acc  : Bool
  raw  : Bool
  deriving DecidableEq, Repr

/-- The `WEAVE` a command is. -/
def Weave.of (c : Cmd) : Option Weave :=
  match c.op with
  | .weave sp rd pair pitch acc raw => some ⟨c, sp, rd, pair, Pitch.of pitch, acc, raw⟩
  | _ => none

/-- Steps of the whole operation (R234). -/
def Weave.total (w : Weave) : Nat := fPoints w.c.snap * pairSteps w.pair

/-- Indices of the point of the next step. -/
def Weave.ix (w : Weave) : List Nat := pointAt (fBounds w.c.snap) (w.c.prog.pt / pairSteps w.pair)

/-- Why a fetch does not go on: a cause, or a refresh window until an MTIME (R93). -/
inductive Stop where
  | trap (t : Trap)
  | till (n : Nat)
  deriving DecidableEq, Repr

/-- A fetch of operands. -/
abbrev F (α : Type) := Except Stop α

/-- A check within a fetch. -/
def liftF {α : Type} : T α → F α
  | .ok a => .ok a
  | .error t => .error (.trap t)

/-- One byte of an operand window (R241). -/
def State.opByte (s : State) (c : Cmd) (w : Nat) (o : Int) : F Nat := do
  let l ← liftF (s.elemAt c .read w o 1 1)
  match s.refreshing c l with
  | some t => .error (.till t)
  | none => .ok ((l.map fun p => (s.elemByte c p).toNat).headD 0)

/-- R210: the address that an offset of a command's window names; a ring's slot begins at its cursor's. -/
def Cmd.addrAt (c : Cmd) (w : Nat) (o : Int) : Int :=
  match c.wins.getD w .plain with
  | .ring lo _ => o + lo
  | _ => o

/-- R241: the start of a segment or stook is a multiple of 16. -/
def aligned16 (c : Cmd) (w : Nat) (o : Int) : F Unit :=
  let a := c.addrAt w o
  liftF (need (a % 16 == 0) .align (.ofInt 64 a))

/-- R244: π(k), and none beyond the table. -/
def Inst.reedAt (i : Inst) (k : Nat) : Option Nat :=
  match i.reedsel with
  | none => some k
  | some t => if k < 4096 then some ((i.store.reed.get 0 (4096 * t + k)).toNat % 4096) else none

/-- The element with an index counted from a segment's start (R55, R244). -/
def State.opElem (s : State) (c : Cmd) (w : Nat) (o : Int) (ty : Ty) (e : Int) : F Nat := do
  if ty.width = 4 then
    let b ← s.opByte c w (o + e / 2)
    .ok (bits b (4 * (e % 2).toNat) 4)
  else
    let n := ty.width / 8
    let l ← (List.range n).mapM fun (k : Nat) => s.opByte c w (o + e * n + k)
    .ok (l.foldr (fun x r => x + 256 * r) 0)

/-- A row or column of a plain pair (R241, R244): `n` elements from a segment. -/
def State.plainRow (s : State) (w : Weave) (win : Nat) (o : Int) (ty : Ty) (n : Nat) : F (List Nat) := do
  aligned16 w.c win o
  let kap := w.ix.getD 5 0 * pairDepth w.pair w.sp
  (List.range n).mapM fun t =>
    let e : Int := if w.reed then ((s.inst.reedAt (kap + t)).getD 0 : Int) - kap else t
    s.opElem w.c win o ty e

/-- R68, R71 to R73: the element of a sheaf's code, without scale. -/
def Weave.elem (i : Inst) (ty : Ty) (h : Hdr) (code : Nat) : Elem := elemOf i.cbAt (ty == .sh8) h.sel h.aux code

/-- A sheaf of an operand (R241, R244, R245): its header and its 32 codes, checked as they are
fetched. -/
def State.sheafRow (s : State) (w : Weave) (win : Nat) (base : Int) (pitch : Nat) (ty : Ty) (i : Nat) :
    F (List Nat) := do
  let c := w.c
  let w8 := ty == .sh8
  let o : Int := base + (i / 8 * pitch : Nat)
  let j := i % 8
  aligned16 c win o
  let b0 ← s.opByte c win (o + hdrAt j)
  let b1 ← s.opByte c win (o + hdrAt j + 1)
  let x := b0 + 256 * b1
  let h := Hdr.of x
  liftF (need (h.ok || c.shpol) .sheafCheck (.ofInt 64 (c.addrAt win (o + hdrAt j))))
  liftF (s.inst.sound (if h.ok && h.sel == 3 then [.cb (h.aux % 8)] else []))
  let i5 := 32 * w.ix.getD 5 0
  let codes ← (List.range 32).mapM fun t => do
    let k := if w.reed then (s.inst.reedAt (i5 + t)).getD 0 - i5 else t
    let b ← s.opByte c win (o + codeAt w8 j k)
    let code := codeOf w8 k b
    match Weave.elem s.inst ty h code with
    | .bad n => liftF (need (!h.ok || c.cbpol) .cbInvalid (.ofNat 64 n))
    | .val _ => .ok ()
    .ok code
  .ok (x :: codes)

/-- R244: what REED requires of the point before its operands are fetched. -/
def State.reedOk (s : State) (w : Weave) : F Unit :=
  let i5 := w.ix.getD 5 0
  if !w.reed then .ok ()
  else if w.pair.sheaf then
    (List.range 32).forM fun t =>
      let k := 32 * i5 + t
      liftF (match s.inst.reedAt k with
        | some x => need (32 * i5 ≤ x && x < 32 * i5 + 32) .access (.ofNat 64 k)
        | none => raiseT .access (.ofNat 64 k))
  else
    let d := pairDepth w.pair w.sp
    liftF (need (i5 * d + d ≤ 4096) .access (.ofNat 64 (i5 * d)))

/-- Operand A's row `i` of the next step. -/
def State.rowA (s : State) (w : Weave) (i : Nat) : F (List Nat) := do
  let o := fOffset w.c.snap 0 w.ix
  let ty := w.pair.tys.1
  if w.pair.sheaf then s.sheafRow w 0 o w.p.pa ty i
  else s.plainRow w 0 (o + (i * w.p.pa : Nat)) ty (if w.sp then pairDepth w.pair true / 2 else pairDepth w.pair false)

/-- Operand B's column `j` of the next step. -/
def State.colB (s : State) (w : Weave) (j : Nat) : F (List Nat) := do
  let o := fOffset w.c.snap 1 w.ix
  let ty := w.pair.tys.2
  if w.pair.sheaf then s.sheafRow w 1 o w.p.pb ty j
  else s.plainRow w 1 (o + (j * w.p.pb : Nat)) ty (pairDepth w.pair w.sp)

/-- Rows from a number on, as far as they can be fetched, and why the fetch stopped. -/
def fetchRows (get : Nat → F (List Nat)) : List Nat → List (List Nat) × Option Stop
  | [] => ([], none)
  | i :: t => match get i with
    | .ok r =>
      let (l, e) := fetchRows get t
      (r :: l, e)
    | .error e => ([], some e)

/-- R243: the positions of a row's stored elements in a sparse step. -/
def State.sparsePos (s : State) (w : Weave) (i : Nat) : List Nat :=
  let d := pairDepth w.pair true
  let at_ := (w.p.mdb * 128 + w.c.prog.pt * 128 + 4 * i) % 131072
  let m := ofBytes (SMap.getList 0 s.inst.store.md at_ 4)
  (List.range (d / 2)).map fun k => 4 * (k / 2) + bits m (2 * k) 2

/-- An exact sum of products in a step (R80, R81). -/
structure Sum where
  dy  : Dy := (0, 0)
  nan : Bool := false
  pos : Bool := false
  neg : Bool := false
  fl  : Flags := 0
  deriving DecidableEq, Repr

/-- A product added (R62, R80). -/
def Sum.add (x : Sum) (a b : Fl) : Sum :=
  let (p, f) := Fl.mul a b
  let x := { x with fl := x.fl ||| f }
  match p with
  | .nan _ => { x with nan := true }
  | .inf n => if n then { x with neg := true } else { x with pos := true }
  | .fin _ _ _ => { x with dy := Dy.add x.dy p.dy }

/-- The value of a sum (R80): an exact zero is +0 (log 23). Infinite products of both signs set NV (R62), also
beside a product with a NaN operand: DESIGN CHOICE (log 66). -/
def Sum.val (x : Sum) : Fl × Flags :=
  if x.pos && x.neg then (.nan false, x.fl ||| Flags.nv)
  else if x.nan then (.nan false, x.fl)
  else if x.pos then (.inf false, x.fl)
  else if x.neg then (.inf true, x.fl)
  else (Fl.ofDy x.dy false, x.fl)

/-- The products of two lists of values. -/
def productsOf (l : List (Fl × Fl)) : Sum := l.foldl (fun x p => x.add p.1 p.2) {}

/-- R62: `Rne32(acc + x)` with OF and the NV of opposite infinities; a NaN in the accumulator sets
nothing. -/
def accumulate (acc : Nat) (x : Fl) : Nat × Flags :=
  let quiet : Fl → Fl
    | .nan _ => .nan false
    | v => v
  let (r, f) := Fl.add 0 (quiet (Ty.f32.decode acc)) (quiet x)
  let (z, g) := rne32 r
  (z, f ||| (g &&& Flags.of))

/-- R79 `Acc`: an integer added under WRAP or SAT. -/
def accInt (sat : Bool) (acc : Nat) (x : Int) : Nat × Flags :=
  let v := Ty.i32.int acc + x
  if sat then Ty.i32.satInt v else (Ty.i32.wrap v, 0)

/-- R81: the special value of a block sum: whether a product is a NaN, and products +∞ and −∞. -/
def RawSum.special (nan pos neg : Bool) : Option RawSum :=
  if nan || (pos && neg) then some (.nan pos neg)
  else if pos then some (.inf false)
  else if neg then some (.inf true)
  else none

/-- R81: a block sum in 80 bits with 40 fraction bits. -/
def RawSum.of (x : Sum) : RawSum :=
  let (m, e) := x.dy
  (RawSum.special x.nan x.pos x.neg).getD
    (.fin (.ofInt 80 (if 0 ≤ e + 40 then m * 2 ^ (e + 40).toNat else m / 2 ^ (-(e + 40)).toNat)))

/-- Whether a block sum is a NaN, and whether products +∞ and −∞ are in it. -/
def RawSum.specials : RawSum → Bool × Bool × Bool
  | .nan p n => (true, p, n)
  | .inf n => (false, !n, n)
  | .fin _ => (false, false, false)

/-- Its finite value. -/
def RawSum.bits : RawSum → BitVec 80
  | .fin v => v
  | _ => 0

/-- The value of a block sum. -/
def rawVal : RawSum → Fl
  | .nan _ _ => .nan false
  | .inf n => .inf n
  | .fin v => Fl.ofDy (v.toInt, -40) false

/-- R242: a second step's sum added, exactly; infinite products of both signs in the whole block sum are
one invalid operation (R62). -/
def rawAdd (a b : RawSum) : RawSum × Flags :=
  let (na, pa, ma) := a.specials
  let (nb, pb, mb) := b.specials
  let pos := pa || pb
  let neg := ma || mb
  ((RawSum.special (na || nb) pos neg).getD (.fin (a.bits + b.bits)), Flags.nv.on (pos && neg))

/-- A sheaf operand as decoded: its values, its scale, whether it selects a codebook, and whether its
header failed under POL = 1 (R66, R81, R245). -/
structure Block where
  vals  : List Fl
  scale : Nat
  cb    : Bool
  dead  : Bool
  fl    : Flags
  deriving DecidableEq, Repr

/-- A fetched sheaf decoded (R68 to R73). -/
def Block.of (i : Inst) (ty : Ty) (row : List Nat) : Block :=
  let h := Hdr.of (row.headD 0)
  if !h.ok then ⟨List.replicate 32 (.fin false 0 0), 127, false, true, Flags.shz⟩
  else
    let e := row.tail.map (Weave.elem i ty h)
    let bad := e.any fun | .bad _ => true | _ => false
    ⟨e.map fun | .val x => x | .bad _ => .fin false 0 0, h.scale, h.sel == 3, false, Flags.cbz.on bad⟩

/-- R81: the products of one step of a block pair. -/
def blockSum (a b : Block) (lo n : Nat) : RawSum × Flags :=
  if a.dead || b.dead then (.fin 0, 0)
  else if a.cb && b.cb then (.fin 0, Flags.cbz)
  else
    let x := productsOf (((a.vals.drop lo).take n).zip ((b.vals.drop lo).take n))
    (RawSum.of x, x.val.2)

/-- Writing a tile (R87), as an effect of M. No copy sees what an operation has written before this, its
partial results (R88): only its first write of the tile leaves the value before it (log 13). -/
def State.setTile (s : State) (first : Bool) (t : Nat) (l : List Nat) : State :=
  let w := l.zipIdx.flatMap fun (x, k) =>
    (toBytes 4 x).zipIdx.map fun (b, j) => (Loc.acc (4096 * t + 4 * k + j), b)
  if first then s.pokes (some .loom) w else s.puts w

/-- R302: the bytes of a tile can be read; the place of one that cannot is its offset in the accumulator store. -/
def Inst.tileSound (i : Inst) (t : Nat) : T Unit :=
  match i.bad.findSome? fun e => match e.1 with
    | .acc o => if o / 4096 = t then some o else none
    | _ => none with
  | some o => raiseT .eccUncorr (.ofNat 64 o)
  | none => .ok ()

/-- The 1024 (row, column) pairs. -/
def cells : List (Nat × Nat) := (List.range 1024).map fun k => (k / 32, k % 32)

/-- A tile updated element by element, with the flags of the updates; `old` is false where it starts
from zeros (R242), `first` at the operation's first write of it. -/
def State.updateTile (s : State) (first : Bool) (t : Nat) (old : Bool) (f : Nat × Nat → Nat → Nat × Flags) :
    State :=
  let tile := if old then s.inst.tile t else List.replicate 1024 0
  let r := (cells.zip tile).map fun (ij, x) => f ij x
  (s.setTile first t (r.map (·.1))).addFlags (r.foldl (fun k p => k ||| p.2) 0)

/-- Tiles of the operation already written (R242). -/
def Weave.wrote (w : Weave) (t : Nat) : Bool := w.c.prog.sectors.contains (.acc t)

/-- R241: the tile of a point; one whose old values the step reads holds no error (R302). -/
def State.weaveTile (s : State) (w : Weave) : F Nat := do
  let o := fOffset w.c.snap 2 w.ix
  liftF (need (o % 4096 == 0) .align (.ofInt 64 o))
  liftF (need (0 ≤ o && o < s.inst.acct * 4096) .access (.ofInt 64 o))
  let t := (o / 4096).toNat
  if w.acc || w.wrote t then liftF (s.inst.tileSound t)
  .ok t

/-- R242: a plain step applied to its tile. -/
def State.plainStep (s : State) (w : Weave) (t : Nat) (a b : List (List Nat)) : State :=
  let (ta, tb) := w.pair.tys
  let pairs (i j : Nat) : List (Nat × Nat) :=
    let x := a.getD i []
    let y := b.getD j []
    if w.sp then x.zip ((s.sparsePos w i).map fun k => y.getD k 0) else x.zip y
  let step (ij : Nat × Nat) (old : Nat) : Nat × Flags :=
    let l := pairs ij.1 ij.2
    if w.pair.int then accInt s.inst.lsat old ((l.map fun p => ta.int p.1 * tb.int p.2).sum)
    else
      let (x, f) := (productsOf (l.map fun p => (ta.decode p.1, tb.decode p.2))).val
      let (z, g) := accumulate old x
      (z, f ||| g)
  s.updateTile (!w.wrote t) t (w.acc || w.wrote t) step

/-- R82, R247: a block sum folded into an element. -/
def fold (raw : RawTile) (adj : Int) (ij : Nat × Nat) (old : Nat) : Nat × Flags :=
  let p := rawVal (raw.sums.get (.fin 0) (32 * ij.1 + ij.2))
  let e : Int := (raw.sa.get 0 ij.1).toNat + (raw.sb.get 0 ij.2).toNat - 254 + adj
  accumulate old (p.scale e)

/-- R242, R245: the block sums of a sheaf step, and the latch at a point's last step. -/
def State.sheafStep (s : State) (w : Weave) (a b : List (List Nat)) : State :=
  let i := s.inst
  let n := pairDepth w.pair false
  let sub := w.c.prog.pt % pairSteps w.pair
  let x := a.map (Block.of i w.pair.tys.1)
  let y := b.map (Block.of i w.pair.tys.2)
  let none_ : Block := ⟨[], 127, false, true, 0⟩
  let r := cells.map fun (k, j) =>
    let (v, f) := blockSum (x.getD k none_) (y.getD j none_) (n * sub) n
    if sub = 0 then (v, f)
    else
      let (v, g) := rawAdd (i.store.raw.sums.get (.fin 0) (32 * k + j)) v
      (v, f ||| g)
  let fl := (x ++ y).foldl (fun r k => r ||| k.fl) (r.foldl (fun k p => k ||| p.2) 0)
  let sums := SMap.run (.fin 0) 0 (r.map (·.1))
  let raw := i.store.raw
  let scales (l : List Block) : SMap Byte := SMap.run 0 0 (l.map fun k => .ofNat 8 k.scale)
  let raw := if sub + 1 = pairSteps w.pair then ⟨true, sums, scales x, scales y⟩ else { raw with sums := sums }
  (s.setInst ({ i with store := { i.store with raw := raw } }.mend .raw)).addFlags fl

/-- R81: two codebooks in one block pair, under POL = 0: some entry of the two sheaves is named
(log 24). -/
def State.twoBooks (s : State) (w : Weave) (a b : List (List Nat)) : F Unit :=
  let (ta, tb) := w.pair.tys
  let ha (r : List Nat) := Hdr.of (r.headD 0)
  let book (r : List Nat) : Bool := (ha r).ok && (ha r).sel == 3
  let entries (ty : Ty) (r : List Nat) : List Nat :=
    let h := ha r
    r.tail.map fun c => h.aux % 8 * 256 + (if ty == .sh8 then c else h.aux / 8 * 16 + c)
  if !w.pair.sheaf || w.c.cbpol then .ok ()
  else match a.find? book, b.find? book with
    | some x, some y =>
      let l := entries ta x ++ entries tb y
      .error (.trap ⟨.cbInvalid, .ofNat 64 (l.getD (Config.freeNat s.free % 64) 0)⟩)
    | _, _ => .ok ()

/-- A step whose operands are all fetched takes effect (R242, R245). -/
def State.applyStep (s : State) (w : Weave) (a b : List (List Nat)) (t : Nat) : State × List Loc :=
  if !w.pair.sheaf then (s.plainStep w t a b, addTile w.c.prog.sectors t)
  else
    let s := s.sheafStep w a b
    if w.raw || w.c.prog.pt % pairSteps w.pair + 1 ≠ pairSteps w.pair then (s, w.c.prog.sectors)
    else (s.updateTile (!w.wrote t) t (w.acc || w.wrote t) (fold s.inst.store.raw 0),
      addTile w.c.prog.sectors t)
where addTile (l : List Loc) (t : Nat) : List Loc := if l.contains (.acc t) then l else l ++ [.acc t]

/-- The offsets of the bytes of row or column `i` of an operand from its window's start (R241, R244). -/
def State.rowBytes (s : State) (w : Weave) (win pitch : Nat) (ty : Ty) (n i : Nat) : List Int :=
  let o := fOffset w.c.snap win w.ix
  let at_ (lo t : Nat) : Int := if w.reed then ((s.inst.reedAt (lo + t)).getD 0 : Int) - lo else t
  let k := w.ix.getD 5 0
  if w.pair.sheaf then
    let o := o + (i / 8 * pitch : Nat)
    let hd : Int := o + hdrAt (i % 8)
    hd :: (hd + 1) :: (List.range 32).map fun t => o + codeAt (ty == .sh8) (i % 8) (at_ (32 * k) t).toNat
  else
    let o := o + (i * pitch : Nat)
    (List.range n).flatMap fun t =>
      let e := at_ (k * pairDepth w.pair w.sp) t
      if ty.width = 4 then [o + e / 2]
      else (List.range (ty.width / 8)).map fun (b : Nat) => o + e * (ty.width / 8 : Nat) + b

/-- R93: the granary bytes that a step has still to read, with the A rows given already fetched. -/
def State.stepBytes (s : State) (w : Weave) (rows : Nat) : List ELoc :=
  let side (win pitch : Nat) (ty : Ty) (n lo : Nat) : List ELoc :=
    if fKind w.c.snap win == .granary then
      (((List.range 32).drop lo).flatMap (s.rowBytes w win pitch ty n)).map fun o => .gran o.toNat
    else []
  let d := pairDepth w.pair w.sp
  side 0 w.p.pa w.pair.tys.1 (if w.sp then d / 2 else d) rows ++ side 1 w.p.pb w.pair.tys.2 d 0

/-- R302: what a step reads beside its operands can be read: the metadata store, the raw sums of its
point's first step, a reed table. -/
def State.stepSound (s : State) (w : Weave) : F Unit :=
  liftF (s.inst.sound ((if w.sp then [.md] else []) ++
    (if w.c.prog.pt % pairSteps w.pair = 0 then [] else [.raw]) ++
    (match w.reed, s.inst.reedsel with
      | true, some t => [.reed t]
      | _, _ => [])))

/-- R236: a fetch that does not go on: a refresh window holds the step, whose units have all begun their
reads (R93) and each of which the window delays (R284); a cause stops the `WEAVE` with the rows fetched kept, and is raised unless the instance has
stopped already. -/
def State.stopStep (s : State) (w : Weave) (rows : List (List Nat)) (e : Stop) : State :=
  let g := w.c.prog
  match e with
  | .till t =>
    let g := { g with stage := rows, hold := some t, began := some (g.began.getD s.mtime.toNat) }
    (s.setInst (s.inst.setOp .loom { w.c with prog := g })).count s.core 7
      (s.delays w.c (s.stepBytes w w.c.prog.stage.length))
  | .trap t =>
    let i := s.inst.setOp .loom { w.c with prog := { g with stage := rows, began := none } }
    let i := { i with mprog := ⟨true, .ofNat 31 g.pt, .ofNat 6 rows.length⟩ }
    let s := { s.setInst i with free := s.free + 1 }
    if i.phase.live then s.raise .M t else s

/-- The next step of a running `WEAVE` (R234, R236, R242). A step in flight at a stop moves the record of
the quiescent point on (R235). -/
def State.weaveStep (s : State) (w : Weave) : State :=
  match s.reedOk w with
  | .error e => s.stopStep w w.c.prog.stage e
  | .ok _ =>
    let k := w.c.prog.stage.length
    let (more, e) := fetchRows (s.rowA w) ((List.range 32).drop k)
    let a := w.c.prog.stage ++ more
    match e with
    | some e => s.stopStep w a e
    | none =>
      match fetchRows (s.colB w) (List.range 32) with
      | (_, some e) => s.stopStep w a e
      | (b, none) =>
        match (do s.twoBooks w a b; s.stepSound w; if w.raw then .ok 0 else s.weaveTile w) with
        | .error e => s.stopStep w a e
        | .ok t =>
          let (s, tiles) := s.applyStep w a b t
          let g := w.c.prog
          let i := s.inst.setOp .loom
            { w.c with prog := { g with pt := g.pt + 1, stage := [], sectors := tiles, began := none } }
          let i := if i.phase.live then i else { i with mprog := ⟨true, .ofNat 31 (g.pt + 1), 0⟩ }
          (s.setInst i).count s.core 3 1

/-- The units of storage a Loom command accesses when it runs (R296). -/
def Inst.loomUnits (i : Inst) (c : Cmd) : List Unit_ :=
  match c.op with
  | .weave sp rd pair _ _ _ =>
    (if pair.sheaf then .raw :: (List.range 8).map .cb else []) ++ (if sp then [.md] else []) ++
      (match rd, i.reedsel with
        | true, some t => [.reed t]
        | _, _ => [])
  | .scacc _ _ => [.raw]
  | .mdcopy _ _ _ => [.md]
  | .cbld b _ => [.cb b]
  | .cbq _ b => [.cb b]
  | .reedld t _ => [.reed t]
  | .drain ty _ _ _ _ _ => if ty.isSheaf && bits c.block 67 1 == 1 then [.cb (bits c.block 72 3)] else []
  | _ => []

/-- The Loom starts the command at the head of its queue (R12, R233); one that has entered the job's handler
executes again after `RETF` (R236), and one that would touch what M has accessed since does not start
(log 21). -/
def execLoomCommandStart (core : Nat) (s : State) : Out :=
  let s := s.on core .M
  match unstarted s.str.eq with
  | some c =>
    .next (if s.inst.phase.live && !(s.inst.inhnd && s.inst.loomHeld) && !s.overtaken c then s.beginCmd (.queue .M) c else s)
  | none => .next s

/-- R24: STOPPED. -/
def Phase.isStopped : Phase → Bool
  | .stopped _ => true
  | _ => false

/-- R234, R235: the Loom takes steps of a `WEAVE`: while the instance runs, and to its quiescent point a
step that was in flight when it stopped. -/
def Inst.steps (i : Inst) (c : Cmd) : Bool := i.phase.live || (i.phase.isStopped && c.prog.began.isSome)

/-- The Loom takes a step of its `WEAVE` (R234). -/
def execLoomStep (core : Nat) (s : State) : Out :=
  let s := s.on core .M
  match s.inst.op .loom with
  | none => .next s
  | some c =>
    match Weave.of c with
    | none => .next s
    | some w =>
      if s.inst.steps c && c.prog.hold.isNone && c.prog.pt < w.total then
        match s.claims core (s.inst.loomUnits c) with
        | .ok s => .next (s.weaveStep w)
        | .error f => .fault f
      else .next s

end Sys2Proof.Machine
end

