-- ==== Sys2Proof/Machine/LoomCmd.lean ====
section
/-! DEFINITION. The other Loom commands: raw tile and modes (R247 to R249), accumulator instructions
(R250 to R252), `DRAIN` (R253 to R256), tables (R257 to R261), and how a command completes (R233,
R235, R236). -/

namespace Sys2Proof.Machine

/-- `SCACC` (R247). -/
def execScacc (h : Head) (a b : Src) (s : State) : Out :=
  issueCmd (.scacc h a b) s fun s =>
    let t := s.val h .i64 a
    let adj := s.val h .i64 b
    loomIssue (.scacc h a b) (.scacc t adj) [t, adj, 0, 0] 0 [t.toNat] s

/-- `LMODE.WRAP` (R248). -/
def execLmodeWrap (h : Head) (s : State) : Out :=
  issueCmd (.lmodeWrap h) s (loomIssue (.lmodeWrap h) (.lmode false) [] 0 [])

/-- `LMODE.SAT` (R248). -/
def execLmodeSat (h : Head) (s : State) : Out :=
  issueCmd (.lmodeSat h) s (loomIssue (.lmodeSat h) (.lmode true) [] 0 [])

/-- `LSYNC` (R249). -/
def execLsync (h : Head) (s : State) : Out :=
  issueCmd (.lsync h) s (loomIssue (.lsync h) .lsync [] 0 [])

/-- `ACCCLR` (R250). -/
def execAccclr (h : Head) (a b : Src) (s : State) : Out :=
  issueCmd (.accclr h a b) s fun s =>
    let t := s.val h .n64 a
    let n := s.val h .n64 b
    let tiles := (List.range (min n.toNat 768)).map (t.toNat + ·)
    loomIssue (.accclr h a b) (.accclr t n) [t, n, 0, 0] 0 tiles s

/-- R251: the checks of a whole-tile transfer, and the places of its 4096 bytes. -/
def State.imageOf (s : State) (acc : Acc) (tile addr : Word) : T (List Loc) := do
  need (addr.toNat % 64 == 0) .align addr
  need (tile.toNat < s.inst.acct) .access tile
  s.at_ acc addr.toNat 4096

/-- The places of a tile (R87). -/
def tilePlaces (t : Nat) : List Loc := (run (4096 * t) 4096).map Loc.acc

/-- R251, R237: a transfer executed in L or S stalls behind tile locks and the stream's own queued work:
commands that touch the tile or the image, and held stores to bytes that it writes. -/
def State.tileFree (s : State) (tile : Word) (image written : List Loc) : Bool :=
  !s.inst.tileLocked tile.toNat && s.unheld written && s.free_ (image ++ tilePlaces tile.toNat)

/-- 32-bit words of an image (R87). -/
def wordsOf (b : List Byte) : List Nat :=
  (List.range (b.length / 4)).map fun k => ofBytes ((b.drop (4 * k)).take 4)

/-- The bytes of a tile (R87). -/
def Inst.tileBytes (i : Inst) (t : Nat) : List Byte := SMap.getList 0 i.store.acc (4096 * t) 4096

/-- `ACCLD` (R251): a Loom command in M, executed by the stream in L and S. -/
def execAccld (h : Head) (a b c : Src) (s : State) : Out :=
  if s.stream = .M then
    issueCmd (.accld h a b c) s fun s =>
      let t := s.val h .n64 a
      let ad : Word := .ofNat 64 (s.addr h b c)
      loomIssue (.accld h a b c) (.accld t ad) [t, s.val h .i64 b, s.val h .i64 c, 0] 0 [t.toNat] s
  else
    issue (.accld h a b c) s fun s =>
      let t := s.val h .n64 a
      let ad : Word := .ofNat 64 (s.addr h b c)
      .try_ s (s.imageOf .read t ad) fun l =>
        if s.tileFree t l [] then
          .done (s.pokes (some .loom) ((tilePlaces t.toNat).zip (s.load s.stream l)))
        else .hold s

/-- `ACCST` (R251): a Loom command in M, executed by the stream in L and S. -/
def execAccst (h : Head) (a b c : Src) (s : State) : Out :=
  if s.stream = .M then
    issueCmd (.accst h a b c) s fun s =>
      let t := s.val h .n64 a
      let ad : Word := .ofNat 64 (s.addr h b c)
      loomIssue (.accst h a b c) (.accst ad t) [t, s.val h .i64 b, s.val h .i64 c, 0] 0 [] s
  else
    issue (.accst h a b c) s fun s =>
      let t := s.val h .n64 a
      let ad : Word := .ofNat 64 (s.addr h b c)
      .try_ s (s.imageOf .write t ad) fun l =>
        if !s.tileFree t l l then .hold s
        else .try_ s (s.inst.tileSound t.toNat) fun _ =>
          .done (s.pokes (some s.me) (l.zip (s.inst.tileBytes t.toNat)))

/-- `ACCADD` in either direction (R252). -/
def accaddIssue (i : Instr) (col fp : Bool) (h : Head) (a b c : Src) (s : State) : Res :=
  let t := s.val h .n64 a
  let ad := s.val h .i64 b
  let m : BitVec 32 := (s.val h (if fp then .f32 else .i32) c).setWidth 32
  loomIssue i (.accadd col fp t ad m) [t, ad, m.setWidth 64, 0] 0 [t.toNat] s

/-- `ACCADD.ROW` (R252). -/
def execAccaddRow (h : Head) (fp : Bool) (a b c : Src) (s : State) : Out :=
  issueCmd (.accaddRow h fp a b c) s (accaddIssue (.accaddRow h fp a b c) false fp h a b c)

/-- `ACCADD.COL` (R252). -/
def execAccaddCol (h : Head) (fp : Bool) (a b c : Src) (s : State) : Out :=
  issueCmd (.accaddCol h fp a b c) s (accaddIssue (.accaddCol h fp a b c) true fp h a b c)

/-- `DRAIN` (R253). -/
def execDrain (h : Head) (ty : Ty) (pol : Pol) (clr : Bool) (a b c : Src) (s : State) : Out :=
  issueCmd (.drain h ty pol clr a b c) s fun s =>
    let ad := s.val h .i64 a
    let t := s.val h .n64 b
    let p := s.val h .i64 c
    loomIssue (.drain h ty pol clr a b c) (.drain ty pol clr ad t p) [ad, t, p, 0] 0
      (if clr then [t.toNat] else []) s

/-- `MDCOPY` (R257). -/
def execMdcopy (h : Head) (a b c : Src) (s : State) : Out :=
  issueCmd (.mdcopy h a b c) s fun s =>
    let o := s.val h .n64 a
    let ad := s.val h .i64 b
    let n := s.val h .n64 c
    loomIssue (.mdcopy h a b c) (.mdcopy o ad n) [o, ad, n, 0] 0 [] s

/-- `CBLD` (R258). -/
def execCbld (h : Head) (bank : Fin 8) (a b : Src) (s : State) : Out :=
  issueCmd (.cbld h bank a b) s fun s =>
    loomIssue (.cbld h bank a b) (.cbld bank (.ofNat 64 (s.addr h a b)))
      [s.val h .i64 a, s.val h .i64 b, 0, 0] 0 [] s

/-- `CBQ` (R259). -/
def execCbq (h : Head) (d : Dst) (bank : Fin 8) (s : State) : Out :=
  issueCmd (.cbq h d bank) s (loomIssue (.cbq h d bank) (.cbq d bank) [] 0 [])

/-- `REEDLD` (R260). -/
def execReedld (h : Head) (t : Fin 4) (a b : Src) (s : State) : Out :=
  issueCmd (.reedld h t a b) s fun s =>
    loomIssue (.reedld h t a b) (.reedld t (.ofNat 64 (s.addr h a b)))
      [s.val h .i64 a, s.val h .i64 b, 0, 0] 0 [] s

/-- `REEDSEL.ON` (R261). -/
def execReedselOn (h : Head) (t : Fin 4) (s : State) : Out :=
  issueCmd (.reedselOn h t) s (loomIssue (.reedselOn h t) (.reedsel (some t)) [] 0 [])

/-- `REEDSEL.OFF` (R261). -/
def execReedselOff (h : Head) (s : State) : Out :=
  issueCmd (.reedselOff h) s (loomIssue (.reedselOff h) (.reedsel none) [] 0 [])

/-- Bytes a Loom command reads as they stand. -/
def State.peeks (s : State) (l : List Loc) : List Byte := l.map (s.peek s.inst)

/-- `SCACC` when it runs (R247). -/
def State.runScacc (s : State) (tile adj : Word) : T State := do
  need s.inst.store.raw.valid .access tile
  need (-127 ≤ adj.toInt && adj.toInt ≤ 127) .access adj
  need (tile.toNat < s.inst.acct) .access tile
  s.inst.sound [.raw]
  s.inst.tileSound tile.toNat
  .ok (s.updateTile true tile.toNat true (fold s.inst.store.raw adj.toInt))

/-- `ACCCLR` when it runs (R250). -/
def State.runAccclr (s : State) (a n : Word) : T State := do
  need (n == 0 || a.toNat + n.toNat ≤ s.inst.acct) .access a
  .ok ((List.range n.toNat).foldl (fun s k => s.setTile true (a.toNat + k) (List.replicate 1024 0)) s)

/-- `ACCADD` when it runs (R252). -/
def State.runAccadd (s : State) (col fp : Bool) (tile ad : Word) (m : BitVec 32) : T State := do
  need (ad.toNat % 16 == 0) .align ad
  need (match place ad.toNat with | .local_ _ => true | _ => false) .access ad
  need (tile.toNat < s.inst.acct) .access tile
  let v := wordsOf (s.peeks (← s.at_ .read ad.toNat 128))
  s.inst.tileSound tile.toNat
  let sat := s.inst.lsat
  .ok (s.updateTile true tile.toNat true fun (i, j) old =>
    let x := v.getD (if col then i else j) 0
    if fp then
      let (p, f) := Fl.mul (Ty.f32.decode m.toNat) (Ty.f32.decode x)
      let (z, g) := accumulate old p
      (z, f ||| g)
    else accInt sat old (m.toInt * Ty.i32.int x))

/-- The parameter block of a `DRAIN` (R254), as its 528 bytes' value. -/
structure DrainBlock where
  x : Nat
  deriving DecidableEq, Repr

/-- R254: the fields of the header. -/
def DrainBlock.opitch (b : DrainBlock) : Nat := bits b.x 32 32
@[inherit_doc DrainBlock.opitch] def DrainBlock.src (b : DrainBlock) : Bool := bits b.x 16 1 == 1
@[inherit_doc DrainBlock.opitch] def DrainBlock.cols (b : DrainBlock) : Nat := bits b.x 8 5 + 1
@[inherit_doc DrainBlock.opitch] def DrainBlock.rows (b : DrainBlock) : Nat := bits b.x 0 5 + 1
/-- R254: a word of a column entry. -/
def DrainBlock.entry (b : DrainBlock) (j w : Nat) : Nat := bits b.x (128 + 128 * j + 64 * w) 64

/-- R254: how sheaves are quantised. -/
def DrainBlock.quant (b : DrainBlock) (w8 : Bool) : QuantBy :=
  ⟨w8, bits b.x 64 4, bits b.x 68 4, bits b.x 72 3, bits b.x 75 1 == 1⟩

/-- R254: what a parameter block must satisfy. -/
def DrainBlock.ok (b : DrainBlock) (ty : Ty) : Bool :=
  bits b.x 17 15 == 0 && bits b.x 13 3 == 0 && bits b.x 5 3 == 0 && bits b.x 76 52 == 0 &&
    (ty.isSheaf || bits b.x 64 12 == 0) &&
    (List.range 32).all (fun j => b.entry j 1 / 2 ^ 38 == 0 && (!b.src || b.entry j 1 == 0)) &&
    (ty.isSheaf || ty.width != 4 || b.opitch % 2 == 0)

/-- R255: the value y of an element, with the flags of the scaling step (R62). A product 0 × ∞ sets NV also
where BIAS is a NaN, as in `VFMA` (R187): DESIGN CHOICE (log 66). -/
def DrainBlock.y (b : DrainBlock) (tile : List Nat) (r j : Nat) : Fl × Flags :=
  let x := tile.getD (32 * r + j) 0
  let mult := bits (b.entry j 0) 32 32
  let bias := bits (b.entry j 0) 0 32
  if b.src then
    let acc := match Ty.f32.decode x with
      | .nan _ => .nan false
      | v => v
    Fl.fma 0 acc (Ty.f32.decode mult) (Ty.f32.decode bias)
  else
    let u := (Ty.i32.int x + Ty.i32.int bias) * Ty.i32.int mult
    let sh := bits (b.entry j 1) 32 6
    let (k, _) := toInt 0 (u < 0) u.natAbs (-(sh : Int))
    (Fl.ofInt (k + Ty.i32.int (bits (b.entry j 1) 0 32)), 0)

/-- R255: the checks and the value of one element: its places and pattern. A 4-bit element whose byte's
other nibble is not drained reads that byte (R302). -/
def State.drainElem (s : State) (b : DrainBlock) (ty : Ty) (pol : Pol) (tile : List Nat) (a r j : Nat) :
    T (List Loc × Nat × Flags) := do
  let n := max 1 (ty.width / 8)
  let ad := (a + r * b.opitch + (if ty.width = 4 then j / 2 else j * n)) % 2 ^ 64
  need (ad % n == 0) .align (.ofNat 64 ad)
  let l ← s.at_ .write ad n
  if ty.width = 4 && j % 2 == 0 && j + 1 == b.cols then s.inst.soundAt localBase l
  let (y, f) := b.y tile r j
  match ty.convert 0 pol false y with
  | some (p, g) => .ok (l, p, f ||| (g &&& ~~~(Flags.nx ||| Flags.uf)))
  | none => raiseT .ovfTrap (.ofNat 64 (32 * r + j))

/-- R255: 4-bit elements by the byte: the patterns of an even column and of the column after it, or of the
last one alone. -/
def nibbles : List (Nat × List Loc × Nat) → List (List Loc × Nat × Option Nat)
  | (j, l, p) :: (k, l', q) :: t =>
    if k = j + 1 ∧ j % 2 = 0 then (l, p, some q) :: nibbles t else (l, p, none) :: nibbles ((k, l', q) :: t)
  | [(_, l, p)] => [(l, p, none)]
  | [] => []

/-- R255: a `DRAIN` of 4-bit elements with an odd number of columns: each row shares a byte with one that is not
drained. -/
def Cmd.shares (c : Cmd) : Bool :=
  match c.op with
  | .drain ty _ _ _ _ _ => !ty.isSheaf && ty.width == 4 && bits c.block 8 5 % 2 == 0
  | _ => false

/-- R255: the shared bytes as they stand, where they can be written. -/
def State.sharedBytes (s : State) (c : Cmd) : List (Loc × Byte) :=
  match c.op with
  | .drain ty _ _ a _ _ => (drainRuns ty a.toNat c.block).flatMap fun (lo, n) =>
    match s.at_ .write ((lo + (n - 1)) % 2 ^ 64) 1 with
    | .ok l => l.map fun k => (k, s.peek s.inst k)
    | .error _ => []
  | _ => []

/-- A byte as a `DRAIN` has read it (R255); as it stands where its own write has reached it since. -/
def State.kept (s : State) (old : List (Loc × Byte)) (k : Loc) : Byte :=
  ((old.find? (·.1 == k)).map (·.2)).getD (s.peek s.inst k)

/-- R255: the elements written, each by a write of its own; a 4-bit element without its neighbour keeps the other
nibble of its byte, as it was read (`old`). -/
def State.drainPuts (s : State) (ty : Ty) (old : List (Loc × Byte)) (e : List (Nat × List Loc × Nat)) : State :=
  let put (s : State) (l : List (Loc × Byte)) := s.pokes (some .loom) l
  if ty.width = 4 then
    ((nibbles e).foldl (fun (s, old) (l, p, q) => (put s (l.map fun k => (k, .ofNat 8 (match q with
      | some q => p % 16 + 16 * q
      | none => putBits (s.kept old k).toNat 0 4 p))), old.filter fun x => !l.contains x.1)) (s, old)).1
  else e.foldl (fun s (_, l, p) => put s (l.zip (toBytes l.length p))) s

/-- R255: none of the bytes raises `PAGE_FAULT` when it is written; that precedes `ACCESS` of any. -/
def State.paged (s : State) (l : List Nat) : T Unit :=
  match l.findSome? fun a => match s.at_ .write (a % 2 ^ 64) 1 with
    | .error t => if t.cause = .pageFault then some t else none
    | .ok _ => none with
  | some t => .error t
  | none => .ok ()

/-- R256: the sheaf of a row: its places and bytes. -/
def State.drainSheaf (s : State) (b : DrainBlock) (w8 : Bool) (tile : List Nat) (a r : Nat) :
    T (List (Loc × Byte) × Flags) := do
  let ad := (a + r / 8 * b.opitch) % 2 ^ 64
  let j := r % 8
  need (ad % 16 == 0) .align (.ofNat 64 ad)
  let (hd, code) := (ad + hdrAt j, ad + codeAt w8 j 0)
  let n := if w8 then 32 else 16
  s.paged (run hd 2 ++ run code n)
  let hl ← s.at_ .write (hd % 2 ^ 64) 2
  let cl ← s.at_ .write (code % 2 ^ 64) n
  let v := (List.range 32).map fun k =>
    if k < b.cols then
      let (y, f) := b.y tile r k
      let (p, g) := rne32 y
      (Ty.f32.decode p, f ||| (g &&& Flags.of))
    else (.fin false 0 0, 0)
  let x := v.map (·.1)
  let by_ := b.quant w8
  let q := quantise s.inst.cbAt by_ (s.free + 32 * r) x
  .ok ((hl ++ cl).zip (toBytes 2 (q.header by_) ++ q.bytes w8),
    v.foldl (fun k p => k ||| p.2) (quantFlags x))

/-- `DRAIN` when it runs (R253 to R256): every check before any byte is written; `block` is what it has
read of its parameter block, `old` of the bytes that it shares. -/
def State.runDrain (s : State) (ty : Ty) (pol : Pol) (clr : Bool) (a tile par : Word) (block : Nat)
    (old : List (Loc × Byte)) : T State := do
  need (par.toNat % 16 == 0) .align par
  need (match place par.toNat with | .local_ _ => true | _ => false) .access par
  let _ ← s.at_ .read par.toNat 528
  let b : DrainBlock := ⟨block⟩
  need (b.ok ty) .access par
  need (tile.toNat < s.inst.acct) .access tile
  s.inst.tileSound tile.toNat
  let image := s.inst.tile tile.toNat
  let clear (s : State) : State := if clr then s.setTile true tile.toNat (List.replicate 1024 0) else s
  if ty.isSheaf then
    let q := b.quant (ty == .sh8)
    s.inst.sound (if bits q.mask 3 1 == 1 then [.cb q.bank] else [])
    let l ← (List.range b.rows).mapM fun r => s.drainSheaf b (ty == .sh8) image a.toNat r
    let s := State.pokes { s with free := s.free + 1024 } (some .loom) (l.flatMap (·.1))
    .ok (clear (s.addFlags (l.foldl (fun k p => k ||| p.2) 0)))
  else
    let rj := (List.range b.rows).flatMap fun r => (List.range b.cols).map fun j => (r, j)
    let l ← rj.mapM fun (r, j) => do .ok (j, ← s.drainElem b ty pol image a.toNat r j)
    let s := s.drainPuts ty old (l.map fun (j, p, v, _) => (j, p, v))
    .ok (clear (s.addFlags (l.foldl (fun k (_, _, _, f) => k ||| f) 0)))

/-- `MDCOPY` when it runs (R257, R324). -/
def State.runMdcopy (s : State) (o ad n : Word) : T State := do
  need (o.toNat % 16 == 0) .align o
  need (ad.toNat % 16 == 0) .align ad
  need (n.toNat % 16 == 0) .align n
  need (o.toNat + n.toNat ≤ 131072) .access (.ofNat 64 (max o.toNat 131072))
  let b := s.peeks (← s.at_ .read ad.toNat n.toNat)
  let i := s.inst
  let i' := { i with store := { i.store with md := i.store.md.setList 0 o.toNat b } }
  .ok (s.setInst (if n.toNat = 131072 then i'.mend .md else i'))

/-- The image a table load reads (R258, R260). -/
def State.tableImage (s : State) (ad : Word) (n : Nat) : T (List Byte) := do
  need (ad.toNat % 64 == 0) .align ad
  .ok (s.peeks (← s.at_ .read ad.toNat n))

/-- `CBLD` when it runs (R258). -/
def State.runCbld (s : State) (bank : Fin 8) (ad : Word) : T State := do
  let b ← s.tableImage ad 2304
  let i := (s.inst.setUnit b (.cb bank)).mend (.cb bank)
  .ok (s.setInst { i with cbver := i.cbver.set 0 bank (i.cbver.get 0 bank + 1) })

/-- R259: the result of a `CBQ`. -/
def Inst.cbStatus (i : Inst) (bank : Nat) : Word :=
  let n := ((List.range 256).filter fun k =>
    let e := i.entryCb bank k
    e.ok 0 || e.ok 1 || e.ok 2).length
  .ofNat 64 (n * 2 ^ 32 + (i.cbver.get 0 bank).toNat)

/-- `REEDLD` when it runs (R260). -/
def State.runReedld (s : State) (t : Fin 4) (ad : Word) : T State := do
  .ok (s.setInst ((s.inst.setUnit (← s.tableImage ad 8192) (.reed t)).mend (.reed t)))

/-- A command of the Loom queue that is no `WEAVE`, run whole: a cause leaves nothing written (R236). -/
def State.loomRun (s : State) (c : Cmd) : T State :=
  match c.op with
  | .scacc t adj => s.runScacc t adj
  | .lmode sat => .ok (s.setInst { s.inst with lsat := sat })
  | .accclr a n => s.runAccclr a n
  | .accld t ad => do .ok (s.setTile true t.toNat (wordsOf (s.peeks (← s.imageOf .read t ad))))
  | .accst ad t => do
    let l ← s.imageOf .write t ad
    s.inst.tileSound t.toNat
    .ok (s.pokes (some .loom) (l.zip (s.inst.tileBytes t.toNat)))
  | .accadd col fp t ad m => s.runAccadd col fp t ad m
  | .drain ty pol clr ad t p => s.runDrain ty pol clr ad t p c.block (c.shared.getD [])
  | .mdcopy o ad n => s.runMdcopy o ad n
  | .cbld k ad => s.runCbld k ad
  | .cbq d k => do
    s.inst.sound [.cb k]
    .ok (s.result d (s.inst.cbStatus k))
  | .reedld t ad => s.runReedld t ad
  | .reedsel t => .ok (s.setInst { s.inst with reedsel := t })
  | _ => .ok s

/-- The head of the Loom queue leaves it and posts (R11, R233). -/
def State.loomDone (s : State) (c : Cmd) : State :=
  (s.setInst (s.inst.modStr .M fun x => { x with eq := .post (postOf c.head) :: x.eq.drop 1 })).settle .M

/-- R236: a command that faults counts as not started; in a stopped instance nothing is raised. Where its
cause enters the job's handler, it executes again on resumption, after `RETF` (R24). -/
def State.loomFault (s : State) (c : Cmd) (t : Trap) : State :=
  let i := s.inst.setOp .loom { c with started := false }
  let i := if c.head.wamt = 0 then i else i.giveBack (c.head.wsem, c.head.wamt.val)
  let s := s.setInst i
  if i.phase.live then
    let s := s.raise .M t
    if s.inst.inhnd && !i.inhnd then s.setInst { s.inst with loomHeld := true } else s
  else s

/-- A Loom command completes: a `WEAVE` after its last step, any other command with its whole effect,
also while the instance stops (R233, R235, R287). A `DRAIN` reads the bytes it shares with columns that are not
drained in a turn before, so that what others write there in between is lost (R255). -/
def execLoomCommandComplete (core : Nat) (s : State) : Out :=
  let s := s.on core .M
  let i := s.inst
  match i.op .loom with
  | none => .next s
  | some c =>
    match Weave.of c with
    | some w =>
      if i.phase.live && w.total ≤ c.prog.pt then
        .next (State.loomDone (s.setInst { i with mprog := {} }) c)
      else .next s
    | none =>
      if i.phase.live || i.phase.isStopped then
        if c.shares && c.shared.isNone then
          .next (s.setInst (i.setOp .loom { c with shared := some (s.sharedBytes c) }))
        else match s.claims core (i.loomUnits c) with
        | .error f => .fault f
        | .ok s => match s.loomRun c with
          | .ok s => .next (s.loomDone c)
          | .error t => .next (s.loomFault c t)
      else .next s

end Sys2Proof.Machine
end

