-- ==== Sys2Proof/Machine/Sched.lean ====
section
/-! DEFINITION. Instances on cores: placement and draught (R21, R273, R275, R276), start (R22), aging
(R274), iterations and retirement (R23, R24), and pre-emption (R278, R294 to R297). -/

namespace Sys2Proof.Machine

/-- R276: instances of a launch that hold grants on a plot: a victim's stays with it through PREEMPTED, also
while its pre-empting instance uses it (R278). -/
def State.launchGrants (s : State) (die n plot : Nat) : Nat :=
  (List.range 12).foldl (fun r k =>
    let c := s.coreAt (12 * plot + k)
    let of_ (i : Inst) : Bool := c.held i && i.launch.die == die && i.launch.node == n
    r + bit (c.main.any of_) + bit (c.pre.any of_)) 0

/-- R276, R277: a plot has a grant for an instance of a launch with this DRAUGHT. -/
def State.grantFree (s : State) (die n draught plot : Nat) : Bool :=
  s.launchGrants die n plot < draught && s.grants plot < (s.plotAt plot).budget

/-- DRAUGHT of a node's header (R14). -/
def Node.draught (x : Node) : Nat := fld x.hdr 348 4

/-- The group of an instance by its D indices (R21). -/
def Node.groupOf (x : Node) (inst : Nat) : Nat :=
  let l := lrLoops x.rec_
  dGroup l (spatialIdx l inst)

/-- R275: the die that an instance's group has been handed to. -/
def Node.groupDie (x : Node) (inst : Nat) : Option Nat :=
  match x.groups.get 0 (x.groupOf inst) with
  | 0 => none
  | d + 1 => some d

/-- R21, R275: a die on which an instance may run: of a D-level launch that of its group. -/
def Node.dieOk (x : Node) (inst die : Nat) : Bool :=
  !hasD (lrLoops x.rec_) || x.groupDie inst == some die

/-- The lowest-numbered waiting instance of a node, with the level and the pool it waits in (R21, R273); none
while a lower-numbered one still has to be handed to a die (R275). -/
def Node.first (x : Node) : Option (Nat × Nat × Nat) :=
  let w := x.wait.foldl (fun r w => match r with
    | some (k, _) => if w.lo < k then some (w.lo, w.level, w.pool) else r
    | none => some (w.lo, w.level, w.pool)) none
  if hasD (lrLoops x.rec_) then
    w.filter fun (k, _) => (List.range k).all fun j => (x.groupDie j).isSome
  else w

/-- R275: a group of a ready D-level launch is handed to the dispatcher of a die that has a plot in PLOTS:
its instances enter that die's ready pool. -/
def State.handGroup (s : State) (die n g to_ : Nat) : State :=
  match s.nodeAt die n with
  | none => s
  | some x =>
    let plots := (List.range 8).any fun k => (lrPlots x.rec_).getLsbD (8 * to_ + k)
    if x.state != .ready || x.failIn || !hasD (lrLoops x.rec_) || x.groups.get 0 g != 0 || 8 ≤ to_ || !plots ||
        (s.dieAt die).stopped || (s.dieAt to_).stopped then s
    else
      let s := s.setNode die n { x with groups := x.groups.set 0 g (to_ + 1) }
      ((List.range x.total).filter fun k => x.groupOf k == g).foldl
        (fun s k => s.enterPool die n k 1 (lrPrio x.rec_) to_) s

/-- R275, R276: a core that an instance can be placed on. -/
def State.fits (s : State) (die n : Nat) (x : Node) (inst core : Nat) : Bool :=
  let c := s.coreAt core
  core < 768 && c.main.isNone && c.pre.isNone && !(s.dieAt (dieOf core)).stopped &&
    (lrPlots x.rec_).getLsbD (plotOf core) && x.dieOk inst (dieOf core) &&
    (x.draught == 0 || s.grantFree die n x.draught (plotOf core))

/-- R273: an instance that some core can take. -/
def State.placeable (s : State) (die n : Nat) (x : Node) (inst : Nat) : Bool :=
  (List.range 768).any (s.fits die n x inst)

/-- Insertion into a list in the order of a key; equal keys keep their order. -/
def insertBy {α : Type} (key : α → Nat) (x : α) : List α → List α
  | [] => [x]
  | y :: t => if key x < key y then x :: y :: t else y :: insertBy key x t

/-- Instances of a node that wait at a level of a die's pool (R273). -/
def Node.waitsAt (x : Node) (pool level : Nat) : List WaitRun :=
  x.wait.filter fun w => w.pool == pool && w.level == level

/-- R273, R274: the instances of a graph that may be taken at a level of a die's pool, oldest first: those
that joined the level first, and a node's lowest-numbered instance. Each is the die of its node, the node and
the instance. -/
def State.graphQueue (s : State) (pool level : Nat) (g : GraphId) : List (Nat × Nat × Nat) :=
  let l := s.dies.flatMap fun (die, d) => d.nodes.filterMap fun (n, x) => x.bind fun x =>
    if x.g == g && x.state == .ready then
      match x.first, (x.waitsAt pool level).map (·.ord) with
      | some (k, lv, p), o :: t =>
        if lv = level ∧ p = pool then some (t.foldl min o, die, n, k) else none
      | _, _ => none
    else none
  (l.foldl (fun acc e => insertBy (·.1) e acc) []).map (·.2)

/-- R273: the instances of a level in the order in which the dispatcher tries them. -/
def State.levelQueue (s : State) (pool level : Nat) : List (Nat × Nat × Nat) :=
  ((s.dieAt pool).rot.get [] level).flatMap (s.graphQueue pool level)

/-- R273: the instance a die's dispatcher places next: the first that can be placed, higher levels first. -/
def State.nextPlaced (s : State) (pool : Nat) : Option (Nat × Nat × Nat) :=
  ([3, 2, 1, 0].flatMap (s.levelQueue pool)).find? fun (die, n, k) =>
    (s.nodeAt die n).any fun x => s.placeable die n x k

/-- R273: an instance of a graph waits at a level of a die's pool. -/
def State.graphWaits (s : State) (pool level : Nat) (g : GraphId) : Bool :=
  s.anyNode g fun _ x => !(x.waitsAt pool level).isEmpty

/-- Waiting instances without the one numbered. -/
def WaitRun.without (k : Nat) (w : WaitRun) : List WaitRun :=
  if w.lo = k then (if w.n ≤ 1 then [] else [{ w with lo := k + 1, n := w.n - 1 }]) else [w]

/-- R273: an instance leaves a ready pool: its graph takes the last place of its level, or none where it has
no more waiting there. -/
def State.leavePool (s : State) (die n inst level pool : Nat) (x : Node) : State :=
  let x := { x with wait := x.wait.flatMap (WaitRun.without inst), placed := x.placed + 1 }
  let s := s.setNode die n x
  let d := s.dieAt pool
  let l := (d.rot.get [] level).filter (· != x.g)
  s.setDie pool { d with rot := d.rot.set [] level (if s.graphWaits pool level x.g then l ++ [x.g] else l) }

/-- R24: an instance in STARTING on its core. -/
def Node.instance_ (x : Node) (die n inst uid level : Nat) : Inst :=
  let r := x.rec_
  let l := lrLoops r
  { uid := uid, phase := .starting,
    launch := { die := die, node := n, q := x.g.q, qdie := x.g.die, asid := lrAsid r, root := lrRoot r,
                plots := lrPlots r, priv := x.priv, level := level },
    hdr := x.hdr, loops := l, inst := .ofNat 32 inst, idx := spatialIdx l inst }

/-- The dispatcher in whose pool it waits places the next instance on a core of its choice (R21, R273, R275,
R276). -/
def execInstancePlace (die node inst core : Nat) (s : State) : Out :=
  match s.nodeAt die node with
  | none => .next s
  | some x =>
    let (level, pool) := (x.first.map (·.2)).getD (0, die)
    if (s.dieAt die).stopped || (s.dieAt pool).stopped || s.nextPlaced pool != some (die, node, inst) ||
        !s.fits die node x inst core then .next s
    else
      let s := s.leavePool die node inst level pool x
      let i := x.instance_ die node inst s.nextUid level
      let c := s.coreAt core
      .next { s.setCore core { c with main := some i, grant := x.draught != 0 } with nextUid := s.nextUid + 1 }

/-- R13, R18: the semaphores of a declaration block: declared values, and the rings' pairs. -/
def startSems (h : BitVec 512) (d : List (BitVec 128)) : SMap (BitVec 16) :=
  let m := (semVals h d).foldl (fun m (p : Nat × BitVec 16) => SMap.set 0 m p.1 p.2) []
  ((ringRows h d).map ringOf).foldl (fun m (r : Ring) =>
    SMap.set 0 (SMap.set 0 m r.full 0) r.empty (.ofNat 16 r.count)) m

/-- R22: an instance's initial state over the storage it finds. No queue is watched until a `NUDGEARM` names
one: DESIGN CHOICE (log 29). -/
def Inst.start (i : Inst) (d : List (BitVec 128)) (store : Store) (begun : Nat) : Inst :=
  let str (st : Stream) : StreamSt :=
    { pc := if i.activeIn st then i.entry st else 0, active := i.activeIn st }
  { uid := i.uid, phase := .running, launch := i.launch, hdr := i.hdr, loops := i.loops, inst := i.inst,
    idx := i.idx, streams := (Five.all ()).map fun st _ => str st, sem := startSems i.hdr d,
    rings := (ringRows i.hdr d).map ringOf, store := { store with raw := {} }, begun := begun }

/-- R31: the core's own fields whose reset is at instance start (R35); its instruction cache starts
empty (log 12). -/
def Core.atStart (c : Core) : Core :=
  { c with fcause := 0, faddr := 0, regEn := true, remapCnt := 0, icache := [] }

/-- R21: a lower-numbered instance of the same launch has still to start. -/
def State.startsLater (s : State) (i : Inst) : Bool :=
  (s.instsOf i.launch.die i.launch.node).any fun (_, j) => j.phase == .starting && j.inst.toNat < i.inst.toNat

/-- R303: dispatch works on the instance's core's die and on the die of its node. -/
def State.dispatches (s : State) (core : Nat) (i : Inst) : Bool :=
  !(s.dieAt (dieOf core)).stopped && !(s.dieAt i.launch.die).stopped

/-- The initial state of R22 is set and the streams begin fetching, in the order of the instances of a launch
(R21). `keep` is the dispatcher's choice where storage may hold what earlier instances of the same launch
left. Where dispatch is stopped on its die or on its node's it does not start (R303). -/
def execInstanceStart (core : Nat) (keep : Bool) (s : State) : Out :=
  let c := s.coreAt core
  match c.act with
  | none => .next s
  | some i =>
    if i.phase != .starting || !s.dispatches core i || s.startsLater i then .next s
    else
      let d := ((s.nodeAt i.launch.die i.launch.node).map (·.decl)).getD []
      let own := c.owner == some (i.launch.die, i.launch.node)
      let store := if keep && own && c.pre.isNone then c.left else {}
      let s := s.setCore core (c.atStart.setAct (i.start d store s.nextUid))
      .next (State.count { s with nextUid := s.nextUid + 1 } core 9 1)

/-- An instance that has waited at its level for its time rises one level, as its graph's newest there
(R274). -/
def execInstanceAging (die node run : Nat) (s : State) : Out :=
  match s.nodeAt die node with
  | none => .next s
  | some x =>
    match x.wait[run]? with
    | none => .next s
    | some w =>
      let d := s.dieAt w.pool
      let now := s.mtime.toNat
      if w.level < 2 && 2 ^ d.age.toNat ≤ 2 * (now - w.since) then
        let w' := { w with level := w.level + 1, since := now, ord := d.poolN }
        let x := { x with wait := x.wait.set run w' }
        let s := s.setNode die node x
        let d := s.dieAt w.pool
        let l := d.rot.get [] w.level
        let l := if s.graphWaits w.pool w.level x.g then l else l.filter (· != x.g)
        let d := { d with rot := d.rot.set [] w.level l, poolN := d.poolN + 1 }
        .next (s.setDie w.pool (d.join (w.level + 1) x.g))
      else .next s

/-- R23: every active stream has executed `RDV` and no posted work is left; not while the job's handler
runs (R24). -/
def Inst.finished (i : Inst) : Bool := i.phase == .draining && !i.inhnd && i.quietWork

/-- R23: the next temporal iteration. -/
def Inst.iterate (i : Inst) (ix : List (BitVec 24)) : Inst :=
  let again (st : Stream) (x : StreamSt) : StreamSt :=
    if x.active then { x with pc := i.entry st, rdv := false, got := [] } else x
  { i with idx := ix, phase := .running, streams := i.streams.map again, ranNs := 0 }

/-- The shuttle of an instance sees every write of it: nothing is in progress at the end of an iteration
(R23; log 13). -/
def State.seeAll (s : State) (core uid : Nat) : State :=
  { s with lag := s.lag.filter fun e => !(e.core == core && e.uid == uid) }

/-- R297: a victim's saved unit put back from the context save area. -/
def State.restored (s : State) (core : Nat) (v : Inst) : Inst :=
  { v.saved.foldl (fun (i : Inst) u =>
      let (o, b) := i.unitBytes u
      i.setUnit (s.rd ((s.coreAt core).ctx + o) b.length) u) v with saved := [] }

/-- R287, R297: an instance goes on: timed copies whose time has passed enter the shuttle queue before its
streams issue, and posts that waited while it was stopped are made. -/
def State.goOn (s : State) (core : Nat) : State :=
  let s := s.on core s.stream
  (s.setInst (s.inst.releaseAll s.mtime.toNat)).settleAll

/-- The phase a stopped or pre-empted instance returns to (R24). -/
def Phase.back : Phase → Phase
  | .stopped true | .preempted true => .draining
  | .stopped false | .preempted false => .running
  | p => p

/-- R24, R297: the instance a core shows leaves it. Its storage keeps what it left (R22); where it was a
pre-empting one, the victim's units are restored and the victim resumes. -/
def State.vacate (s : State) (core : Nat) : State :=
  let c := s.coreAt core
  match c.pre with
  | some _ =>
    match c.main with
    | some v =>
      let v := { s.restored core v with phase := v.phase.back }
      (s.setCore core { c with pre := none, main := some v, grant := v.draught != 0 }).goOn core
    | none => s.setCore core { c with pre := none, grant := false }
  | none =>
    match c.main with
    | some i =>
      s.setCore core { c with main := none, grant := false, left := i.store,
                              owner := some (i.launch.die, i.launch.node) }
    | none => s

/-- R24, R269: an instance of a node has retired; `failed` marks the launch. -/
def State.instRetired (s : State) (l : Launch) (failed : Bool) : Except Fault State :=
  match s.nodeAt l.die l.node with
  | some x => (s.setNode l.die l.node { x with done := x.done + 1, failed := x.failed || failed }).settleGraphs
  | none => .ok s

/-- An iteration ends (R23): the T indices advance, or the instance retires. A pre-empting instance
retires by an event of its own (R297). -/
def execIterationEnd (core : Nat) (s : State) : Out :=
  let s := s.on core .C
  let i := s.inst
  if s.self.act.isNone || !i.finished || !s.dispatches core i then .next s
  else match nextIter i.loops i.idx with
    | some ix => .next ((s.setInst (i.iterate ix)).seeAll core i.uid)
    | none => if s.self.pre.isSome then .next s else outOf ((s.vacate core).instRetired i.launch false)

/-- A pre-empting instance retires and its victim resumes (R297). -/
def execPreemptingRetire (core : Nat) (s : State) : Out :=
  let s := s.on core .C
  let i := s.inst
  if s.self.pre.isNone || !i.finished || !s.dispatches core i || (nextIter i.loops i.idx).isSome then .next s
  else outOf ((s.vacate core).instRetired i.launch false)

/-- R232, R235: nothing of the shown instance's engines is between a stop and where it must stop: copies
at a sector boundary, the Loom at its quiescent point, with no step in flight and no other command in
progress. -/
def State.quiet (s : State) (core : Nat) : Bool :=
  let s := s.on core .C
  let i := s.inst
  let still := s.setInst { i with phase := .preempted false }
  let loom : Bool := match running i.streams.m.eq with
    | some c => (Weave.of c).isSome && c.prog.began.isNone
    | none => true
  !still.unsettled core && loom

/-- R278: a header that the reserved partition can hold. -/
def Node.small (x : Node) : Bool :=
  let on (k : Nat) := flag x.hdr (464 + k)
  (List.range 5).all (fun k => !on k || fld x.hdr (256 + 8 * k) 8 ≤ 8) &&
    (!on 3 || (fld x.hdr 296 8 ≤ 8 && fld x.hdr 304 4 ≤ 2))

/-- R278: a core whose instance an instance of a node may pre-empt. -/
def State.candidate (s : State) (x : Node) (inst core : Nat) : Bool :=
  let c := s.coreAt core
  match c.main with
  | none => false
  | some v =>
    core < 768 && v.phase.live && c.pre.isNone && c.regEn && v.launch.level < 3 &&
      !(s.dieAt (dieOf core)).stopped &&
      (lrPlots x.rec_).getLsbD (plotOf core) && x.dieOk inst (dieOf core) &&
      (x.draught == 0 || c.grant || s.grants (plotOf core) < (s.plotAt (plotOf core)).budget)

/-- R278: lower level first, then the later start, then the higher core number. -/
def State.worse (s : State) (a b : Nat) : Bool :=
  let key (k : Nat) : Nat × Nat × Nat :=
    match (s.coreAt k).main with
    | some v => (v.launch.level, v.begun, k)
    | none => (4, 0, k)
  let (la, ba, ka) := key a
  let (lb, bb, kb) := key b
  la < lb || (la == lb && (bb < ba || (ba == bb && kb < ka)))

/-- R278: the victim. -/
def State.victim (s : State) (x : Node) (inst : Nat) : Option Nat :=
  (s.cores.map (·.1)).foldl (fun r k =>
    if s.candidate x inst k then
      match r with
      | some b => if s.worse k b then some k else r
      | none => some k
    else r) none

/-- R278: the instance for which the dispatcher pre-empts next, and its victim's core. -/
def State.nextPreempt (s : State) (pool : Nat) : Option (Nat × Nat × Nat × Nat) :=
  (s.levelQueue pool 3).findSome? fun (die, n, k) =>
    match s.nodeAt die n with
    | some x => if !s.placeable die n x k && x.small then (s.victim x k).map fun c => (die, n, k, c) else none
    | none => none

/-- R296: the victim's units that declared storage takes beyond what the victim did not declare. -/
def takenUnits (need have_ all : Nat) (f : Nat → Unit_) : List Unit_ :=
  let k := need - (all - have_)
  (List.range k).map fun j => f (have_ - k + j)

/-- What a saved progress record keeps (R232): not what the command has fetched or read ahead. -/
def Cmd.saved (c : Cmd) : Cmd :=
  { c with prog := { c.prog with stage := [], buf := [], hold := none, began := none, ahead := [] } }

/-- R235, R294: the commands of a pre-empted instance go on from their records: ROW is 0 and a step is
fetched from its start. -/
def Inst.unstage (i : Inst) : Inst :=
  let i := i.quiesce
  let f (it : EqItem) : EqItem := match it with
    | .cmd c => .cmd c.saved
    | it => it
  { i with mprog := { i.mprog with row := 0 }, copies := i.copies.map Cmd.saved,
           streams := i.streams.map fun _ x => { x with eq := x.eq.map f } }

/-- R294, R296: the victim stopped and saved, the posts that wait for nothing more made (R144), the pre-empting instance on its core. -/
def State.preempt (s : State) (core : Nat) (i : Inst) (draught : Nat) : Except Fault State := do
  let s := (s.on core .C).halt
  let v := s.inst.flushAll.unstage
  let s ← s.saveContext core v true []
  let c := s.coreAt core
  let s := s.setCore core { c with
    main := some { v with phase := .preempted (v.phase == .draining), stopNs := 0 }, pre := some i,
    grant := c.grant || draught != 0 }
  let s ← s.claims core (takenUnits (fld i.hdr 352 9) (fld v.hdr 352 9) 384 .spad)
  let s ← s.claims core (takenUnits i.acct v.acct 768 .acc)
  .ok (s.count core 0x0A 1)

/-- A victim is pre-empted for an instance submitted at PRIO 3 that cannot be placed (R278, R294). -/
def execPreemption (die node inst core : Nat) (s : State) : Out :=
  match s.nodeAt die node with
  | none => .next s
  | some x =>
    let pool := (x.first.map (·.2.2)).getD die
    if (s.dieAt die).stopped || (s.dieAt pool).stopped || s.nextPreempt pool != some (die, node, inst, core) ||
        !s.quiet core then .next s
    else
      let s := s.leavePool die node inst 3 pool x
      let i := x.instance_ die node inst s.nextUid 3
      outOf (State.preempt { s with nextUid := s.nextUid + 1 } core i x.draught)

end Sys2Proof.Machine
end

