-- ==== Sys2Proof/Machine/Port.lean ====
section
/-! DEFINITION. The plot supervisor's commands (R291, R292), core ports (R290), debug views (R311), the
Reeve's timeouts of instances (R172, R318), and the stop and rebuild of dispatch (R303, R304). -/

namespace Sys2Proof.Machine

/-- The instance a core shows is STOPPED. -/
def Core.isStopped (c : Core) : Bool := c.act.any fun i => i.phase.isStopped

/-- PSTAT.REJ set: a write or command was refused (R291). -/
def State.refuse (s : State) (core : Nat) : State := s.setCore core { s.coreAt core with rej := true }

/-- R292, R24: the shown instance leaves its core aborted, its launch marked failed and its tickets void
(R164). While dispatch is stopped no instance retires (R303). -/
def State.abort (s : State) (core : Nat) : Except Fault State :=
  match (s.coreAt core).act with
  | none => .ok s
  | some i =>
    if !s.dispatches core i then .ok s
    else ((s.voidTickets (dieOf core) i.uid).vacate core).instRetired i.launch true

/-- R292: units written by a SAVE come back, every stream stands at its frame address, timed copies whose
time has passed enter the shuttle queue (R287), and started commands go on from their records. A context with
an uncorrectable error is aborted (R302). -/
def State.resume (s : State) (core : Nat) : Except Fault State :=
  let c := s.coreAt core
  match c.act with
  | none => .ok s
  | some i =>
    if c.fcause = Cause.code .eccUncorr then s.abort core
    else
      let i := if i.saved.isEmpty then i else s.restored core i
      let i := { i with phase := i.phase.back, streams := i.streams.map fun st x => { x with pc := c.fpc.get st } }
      .ok ((s.setCore core (c.setAct i)).goOn core)

/-- R292: the instance returns to READY with its number; its launch is not marked failed. -/
def State.rerun (s : State) (core : Nat) : Except Fault State :=
  match (s.coreAt core).act with
  | none => .ok s
  | some i =>
    if i.external then .ok (s.refuse core)
    else
      let s := s.vacate core
      let l := i.launch
      match s.nodeAt l.die l.node with
      | some x =>
        let pool := if hasD (lrLoops x.rec_) then (x.groupDie i.inst.toNat).getD l.die else l.die
        .ok ((s.setNode l.die l.node { x with placed := x.placed - 1 }).enterPool l.die l.node i.inst.toNat 1
          (lrPrio x.rec_) pool)
      | none => .ok s

/-- R292, R299: the units of an instance's whole context. -/
def Inst.allUnits (i : Inst) : List Unit_ :=
  (List.range (fld i.hdr 352 9)).map .spad ++ (List.range i.acct).map .acc ++ (List.range 64).map .fur ++
    (List.range 8).map .cb ++ (List.range 4).map .reed ++ [.md, .raw]

/-- R292: the whole context of the shown instance written to its core's area with PREEMPT = 0. It stands
there until RESUME (log 51). -/
def State.saveAll (s : State) (core : Nat) : Except Fault State :=
  let c := s.coreAt core
  match c.act with
  | none => .ok s
  | some i =>
    do
      let i := s.restored core i
      let s ← s.saveContext core i false i.allUnits
      .ok (s.setCore core (c.setAct { i with saved := i.allUnits }))

/-- R291, R292: PCMD. -/
def State.pcmd (s : State) (core cmd : Nat) : Except Fault State :=
  if !(s.coreAt core).isStopped then .ok (s.refuse core)
  else match cmd with
    | 1 => s.resume core
    | 2 => s.abort core
    | 3 => s.rerun core
    | 4 => s.saveAll core
    | _ => .ok s

/-- An access of a plot supervisor that works (R317); a command on a STOPPED instance is taken once its engines
stand where R232 and R235 let them stop. -/
def State.supervisor (s : State) (core : Nat) (cmd : Bool) (f : State → Except Fault State) : Out :=
  if (s.plotAt (plotOf core)).supUp && !(cmd && (s.coreAt core).isStopped && !s.quiet core) then outOf (f s)
  else .next s

/-- RESUME (R292). -/
def execPcmdResume (core : Nat) (s : State) : Out := s.supervisor core true fun s => s.pcmd core 1

/-- ABORT (R292). -/
def execPcmdAbort (core : Nat) (s : State) : Out := s.supervisor core true fun s => s.pcmd core 2

/-- RERUN (R292). -/
def execPcmdRerun (core : Nat) (s : State) : Out := s.supervisor core true fun s => s.pcmd core 3

/-- SAVE (R292). -/
def execPcmdSave (core : Nat) (s : State) : Out := s.supervisor core true fun s => s.pcmd core 4

/-- Streams by number (R33). -/
def streamNo (k : Nat) : Stream := streams.getD k .C

/-- R290: the stream whose copy of a per-stream register is shown. -/
def Inst.shownStream (i : Inst) : Stream := ([Stream.C, .L, .M, .V, .S].find? i.activeIn).getD .C

/-- `%g` registers of a stream that the port shows (R290). -/
def Inst.shownG (i : Inst) (st : Stream) : Nat := if i.activeIn st then i.gcnt st else 0

/-- R290: the per-stream registers of the block at 0x1800, by number. -/
def perStream : Nat → Option Nat
  | 0 => some 0x000 | 1 => some 0x00B | 2 => some 0x00C | 3 => some 0x00D | 4 => some 0x012
  | 5 => some 0x013 | _ => none

/-- R291: STATE; a STARTING instance has no value there. -/
def State.pstate (s : State) (c : Core) : Nat :=
  match c.act with
  | none => 0
  | some i => match i.phase with
    | .running | .draining => 1
    | .stopped _ => 2
    | .preempted _ => 3
    | .starting => Config.freeNat s.free % 8

/-- R291: PSTAT. -/
def State.pstat (s : State) (core : Nat) : Word :=
  let c := s.coreAt core
  .ofNat 64 (bit c.rej * 1024 + bit (c.act.any (·.external)) * 512 + bit c.pre.isSome * 256 + s.pstate c)

/-- Where the bytes of a furrow slot stand while it is in the save area (R299). -/
def Core.savedFurrow (c : Core) (n w : Nat) : Nat := c.ctx + 0x020000 + 128 * n + 8 * w

/-- R290: a location of a core port, 64 bits. -/
def State.portGet (s : State) (core off : Nat) : Word :=
  let c := s.coreAt core
  let i := c.act.getD {}
  if off < 0x1000 then s.csRead core i i.shownStream (off / 8)
  else if off < 0x1500 then
    let st := streamNo ((off - 0x1000) / 0x100)
    let n := off % 0x100 / 8
    if n < i.shownG st then i.g st n else 0
  else if 0x1800 ≤ off ∧ off < 0x1940 then
    match perStream (off % 0x40 / 8) with
    | some n => s.csRead core i (streamNo ((off - 0x1800) / 0x40)) n
    | none => 0
  else if 0x1C00 ≤ off ∧ off < 0x1D00 then (i.sem.get 0 ((off - 0x1C00) / 8)).setWidth 64
  else if 0x2000 ≤ off ∧ off < 0x4000 then
    let n := (off - 0x2000) / 128
    let w := off % 128 / 8
    if i.saved.contains (.fur n) then s.rdWord (c.savedFurrow n w)
    else (i.store.fur.get 0 n).extractLsb' (64 * w) 64
  else if off = 0x4008 then s.pstat core
  else 0

/-- A location beyond a stream's declared registers (R311). -/
def State.portBeyond (s : State) (core off : Nat) : Bool :=
  let i := (s.coreAt core).act.getD {}
  0x1000 ≤ off && off < 0x1500 && i.shownG (streamNo ((off - 0x1000) / 0x100)) ≤ off % 0x100 / 8

/-- R283, R290: a write to a counter clears it, one to a selector chooses its event. -/
def State.perfPut (s : State) (core n : Nat) (v : Word) : State :=
  let p := s.plotAt (plotOf core)
  if n < 0x088 then s.setPlot (plotOf core) { p with perf := p.perf.set 0 (n - 0x080) 0 }
  else s.setPlot (plotOf core) { p with perfsel := p.perfsel.set 0 (n - 0x088) (v.setWidth 16) }

/-- R290: a whole value written to a location while the shown instance is STOPPED. -/
def State.portPut (s : State) (core off : Nat) (v : Word) : Except Fault State :=
  let c := s.coreAt core
  let i := c.act.getD {}
  let put (i : Inst) : Except Fault State := .ok (s.setCore core (c.setAct i))
  let cr (st : Stream) (n : Nat) : Except Fault State := .ok (s.csWrite core i st n (fun _ v => v) v v)
  if off < 0x1000 then
    if 0x080 ≤ off / 8 ∧ off / 8 < 0x090 then .ok (s.perfPut core (off / 8) v) else cr i.shownStream (off / 8)
  else if off < 0x1500 then
    let st := streamNo ((off - 0x1000) / 0x100)
    let n := off % 0x100 / 8
    if n < i.shownG st then put (i.setG st n v) else .ok s
  else if 0x1800 ≤ off ∧ off < 0x1940 then
    match perStream (off % 0x40 / 8) with
    | some n => cr (streamNo ((off - 0x1800) / 0x40)) n
    | none => .ok s
  else if 0x1C00 ≤ off ∧ off < 0x1D00 then
    let n := (off - 0x1C00) / 8
    put ({ i with sem := i.sem.set 0 n (v.setWidth 16) }.mend (.sem n))
  else if 0x2000 ≤ off ∧ off < 0x4000 then
    let n := (off - 0x2000) / 128
    let w := off % 128 / 8
    if i.saved.contains (.fur n) then s.devWrite (c.savedFurrow n w) (toBytes 8 v.toNat)
    else
      let x := putBits (i.store.fur.get 0 n).toNat (64 * w) 64 v.toNat
      put { i with store := { i.store with fur := i.store.fur.set 0 n (.ofNat 1024 x) } }
  else .ok s

/-- R290, R291: a whole value written through the core port. -/
def State.portTake (s : State) (core off : Nat) (v : Word) : Except Fault State :=
  let c := s.coreAt core
  if off = 0x4008 then .ok (if v.getLsbD 10 then s.setCore core { c with rej := false } else s)
  else if off = 0x4000 then s.pcmd core (v.toNat % 8)
  else if !c.isStopped then .ok (s.refuse core)
  else s.portPut core off v

/-- R311: a whole value written through the debug view: PCMD is ignored, DSTAT.ZREAD is cleared, and the
counters and selectors, which only the plot supervisor writes, keep their values (R283). -/
def State.dviewTake (s : State) (core off : Nat) (v : Word) : Except Fault State :=
  let c := s.coreAt core
  if off = 0x4000 then .ok s
  else if off = 0x4010 ∧ c.isStopped then
    .ok (if v.getLsbD 0 then s.setCore core { c with zread := false } else s)
  else if c.isStopped && 0x080 ≤ off / 8 && off / 8 < 0x090 then .ok s
  else s.portTake core off v

/-- R311: a location of the debug view. -/
def State.dviewGet (s : State) (core off : Nat) : Word :=
  if off = 0x4010 then .ofNat 64 (bit (s.coreAt core).zread) else s.portGet core off

/-- R290: the value a 32-bit write comes to: a lower half is held, an upper half completes it. -/
def Port.write (p : Port) (off : Nat) (v : BitVec 32) (cur : Word) : Port × Option Word :=
  if off % 8 = 0 then ({ p with low := some (off, v) }, none)
  else
    let lo := match p.low with
      | some (o, x) => if o + 4 = off then x else cur.setWidth 32
      | none => cur.setWidth 32
    ({ p with low := none }, some (v ++ lo))

/-- R290: what a 32-bit read returns: a lower half latches the upper half for the next read. -/
def Port.read (p : Port) (off : Nat) (cur : Word) : Port :=
  let hi : BitVec 32 := cur.extractLsb' 32 32
  if off % 8 = 0 then { p with data := cur.setWidth 32, high := some (off + 4, hi) }
  else
    let x := match p.high with
      | some (o, x) => if o = off then x else hi
      | none => hi
    { p with data := x, high := none }

/-- A location's offset, from a half's. -/
def whole (off : Nat) : Nat := off / 8 * 8

/-- R290: an aligned 32-bit access of the 64 KiB of a port. -/
def portAccess (off bytes : Nat) : Bool := bytes == 4 && off % 4 == 0

/-- A supervisor writes its core port (R290). -/
def execCorePortWrite (core off bytes : Nat) (v : Word) (s : State) : Out :=
  if 65536 ≤ off ∨ 768 ≤ core then .next s
  else s.supervisor core (whole off == 0x4000) fun s =>
    if !portAccess off bytes then .ok (s.refuse core)
    else
      let c := s.coreAt core
      let (p, r) := c.port.write off (v.setWidth 32) (s.portGet core (whole off))
      let s := s.setCore core { c with port := p }
      match r with
      | none => .ok s
      | some w => s.portTake core (whole off) w

/-- R290: a core port after an aligned 32-bit read. -/
def State.portRead (s : State) (core off : Nat) : State :=
  let c := s.coreAt core
  s.nextFree.setCore core { c with port := c.port.read off (s.portGet core (whole off)) }

/-- A supervisor reads its core port (R290). -/
def execCorePortRead (core off bytes : Nat) (s : State) : Out :=
  if 65536 ≤ off ∨ 768 ≤ core ∨ !(s.plotAt (plotOf core)).supUp ∨ !portAccess off bytes then .next s
  else .next (s.portRead core off)

/-- Machine mode writes a debug view (R311). -/
def execDebugViewWrite (core off bytes : Nat) (v : Word) (s : State) : Out :=
  if 65536 ≤ off ∨ 768 ≤ core ∨ !s.hartsRun then .next s
  else if !portAccess off bytes then .next (s.refuse core)
  else
    let c := s.coreAt core
    let (p, r) := c.dview.write off (v.setWidth 32) (s.dviewGet core (whole off))
    let s := s.setCore core { c with dview := p }
    match r with
    | none => .next s
    | some w => outOf (s.dviewTake core (whole off) w)

/-- Machine mode reads a debug view (R311, R27). -/
def execDebugViewRead (core off bytes : Nat) (s : State) : Out :=
  if 65536 ≤ off ∨ 768 ≤ core ∨ !s.hartsRun ∨ !portAccess off bytes then .next s
  else
    let c := s.coreAt core
    .next (s.nextFree.setCore core
      { c with dview := c.dview.read off (s.dviewGet core (whole off)),
               zread := c.zread || s.portBeyond core (whole off) })

/-- The instance timeout expires (R318): `WATCHDOG`, framed with MTIME and stream 0 (R289). -/
def execWatchdogTimeout (core : Nat) (s : State) : Out :=
  let s := s.on core .C
  let i := s.inst
  if s.self.act.isSome && i.phase.live && (s.dieAt (dieOf core)).reeve.up &&
      (s.lqAt i.launch.qdie i.launch.q).tInst ≤ i.ranNs then
    .next ((s.setInst { i with ranNs := 0 }).raise .C ⟨.watchdog, s.mtime⟩)
  else .next s

/-- R172: an instance whose launch declares an output region that overlaps the packet ring of a ring-parse
queue of its address space. -/
def State.ringProducer (s : State) (i : Inst) : Bool :=
  (s.nodeAt i.launch.die i.launch.node).any fun x =>
    s.dies.any fun (_, d) => d.wq.any fun (_, q) =>
      q.state != .free && q.ringparse && q.asid == i.launch.asid &&
        (outRegions x.hdr x.decl).any fun r => meets r (fld q.desc 128 64, 64 * 2 ^ q.pktlog)

/-- R172: a stretch STOPPED or PREEMPTED that has lasted its timeout. -/
def State.stalledOut (s : State) (core : Nat) (i : Inst) : Bool :=
  (s.dieAt (dieOf core)).reeve.up && s.ringProducer i && s.dispatches core i &&
    (s.lqAt i.launch.qdie i.launch.q).tStall ≤ i.stopNs

/-- R172: a pre-empted victim is aborted; the pre-empting instance runs on. -/
def State.abortVictim (s : State) (core : Nat) (v : Inst) : Except Fault State :=
  let s := s.voidTickets (dieOf core) v.uid
  let c := s.coreAt core
  (s.setCore core { c with main := none, grant := c.pre.any fun p => p.draught != 0 }).instRetired v.launch true

/-- The ring-producer stall timeout expires (R172, R318), for the instance shown or for a victim. -/
def execRingProducerStallTimeout (core : Nat) (victim : Bool) (s : State) : Out :=
  let c := s.coreAt core
  if victim then
    match c.main with
    | some v =>
      if c.pre.isSome && s.stalledOut core v then outOf (s.abortVictim core v) else .next s
    | none => .next s
  else match c.act with
    | some i =>
      if i.phase.isStopped && s.stalledOut core i && s.quiet core then outOf (s.abort core) else .next s
    | none => .next s

/-- R303: an uncorrectable error in a Reeve's memory halts it; that, as one in dispatcher state, stops
dispatch. -/
def execDispatchStop (die : Nat) (inReeve : Bool) (s : State) : Out :=
  let d := s.dieAt die
  if 8 ≤ die then .next s
  else .next (s.setDie die (if inReeve then d.reeveHalted
    else { d with stopped := true, reeve := { d.reeve with fresh := false } }))

/-- R304: how many entries a die has made since one with this SEQ, which counts modulo 2^32 (R271). -/
def Die.seqAge (d : Die) (seq : Nat) : Nat := (d.jseq - .ofNat 32 seq).toNat

/-- R304: the entry of highest SEQ of some kinds for a node. -/
def Die.lastEntry (d : Die) (n : Nat) (kinds : List Nat) : Option JEnt :=
  (d.jlog.filter fun e => e.node == n && kinds.contains e.kind).foldl (fun r e => match r with
    | some b => if d.seqAge e.seq < d.seqAge b.seq then some e else r
    | none => some e) none

/-- R304: instances of a node that no core holds and that have to be placed again. -/
def State.missing (s : State) (die n total : Nat) : List Nat :=
  let here := (s.instsOf die n).map fun e => e.2.inst.toNat
  (List.range total).filter fun k => !here.contains k

/-- R304: a node's entries name the failure of a predecessor that it took (R269). -/
def Die.tookFail (d : Die) (e : LEnt) : Bool :=
  e.failIn || (lrPreds e.rec_).any fun k => (d.lastEntry k [4]).isSome

/-- R304: a child of a node has retired failed (R272). A child is known by its launch-journal entry, on the die
that accepted it (R268): its failure by an entry of that die's counter journal, or by its node there. -/
def State.kidFailed (s : State) (die n : Nat) : Bool :=
  s.dies.any fun (k, d) => d.llog.any fun e => lrChild e.rec_ && e.spawner == some (die, n) &&
    ((d.lastEntry e.node [4]).isSome || (k != die && !d.stopped && (s.nodeAt k e.node).any fun x => x.state == .failed))

/-- R304, R312: a node as its launch-journal entry gives it: its job is read again where its launch record
names it, its successors are the later entries that name it. -/
def State.fromEntry (s : State) (die : Nat) (e : LEnt) : Node :=
  let d := s.dieAt die
  let r := e.rec_
  let priv := (s.lqAt e.g.die e.g.q).priv
  let (h, l) := if lrHdr r = 0 then (0, []) else (s.readJob priv r).getD (0, [])
  let q : BitVec 512 := e.words.setWidth 512
  let own := e.spawner.isNone
  { g := e.g, rec_ := r, hdr := h, decl := l, priv, failIn := d.tookFail e, kidFail := s.kidFailed die e.node,
    succs := (d.llog.filter fun y => (lrPreds y.rec_).contains e.node).map (·.node),
    total := if lrHdr r = 0 then 0 else instCount (lrLoops r), join := if lrJoin r then some 1 else none,
    parent := if lrChild r then e.spawner else none,
    user := if own then recUser q else 0, cq := if own then recCq q else none }

/-- R304: a node rebuilt from the journals and the cores' reports. -/
def State.rebuild (s : State) (die : Nat) (e : LEnt) : State :=
  let d := s.dieAt die
  let n := e.node
  let x := s.fromEntry die e
  let j := (d.lastEntry n [5]).map (·.count)
  let x := { x with join := x.join.map fun k => j.getD k }
  if (d.lastEntry n [4]).isSome then s.setNode die n { x with state := .failed, failed := true }
  else if (d.lastEntry n [3]).isSome then s.setNode die n { x with state := .retired }
  else
    let pred := ((d.lastEntry n [1, 2]).map (·.count)).getD 0
    let here := s.instsOf die n
    let miss := if pred = 0 then s.missing die n x.total else []
    let groups := if hasD (lrLoops x.rec_) then
        here.foldl (fun m (c, i) => SMap.set 0 m (x.groupOf i.inst.toNat) (dieOf c + 1)) x.groups
      else x.groups
    let x := { x with pred := pred, groups := groups,
                      state := if pred = 0 then .ready else .pending, placed := here.length }
    let s := s.setNode die n x
    if x.failIn then s
    else miss.foldl (fun s k =>
      if !hasD (lrLoops x.rec_) then s.enterPool die n k 1 (lrPrio x.rec_) die
      else match x.groupDie k with
        | some p => s.enterPool die n k 1 (lrPrio x.rec_) p
        | none => s) s

/-- R275: graphs of other dies' nodes whose instances wait in a die's pool. -/
def State.rejoin (s : State) (die : Nat) : State :=
  s.dies.foldl (fun s (k, d) =>
    if k = die then s
    else d.nodes.foldl (fun s (_, x) => match x with
      | some x => (x.wait.filter (·.pool == die)).foldl
          (fun s w => s.setDie die ((s.dieAt die).join w.level x.g)) s
      | none => s) s) s

/-- R304: a die whose journals are what the rings in HBM hold. -/
def State.reread (s : State) (d : Die) : Die :=
  { d with jlog := d.jlog.map fun e => s.jentAt e.addr, llog := d.llog.filterMap s.lentAt }

/-- Firmware rebuilds a die's node table by the replay of R304 from the journals in HBM, once the Reeve has
been reloaded, and dispatch resumes (R303, R317). -/
def execJournalReplay (die : Nat) (s : State) : Out :=
  let d := s.dieAt die
  if !d.stopped || !d.reeve.up || !d.reeve.fresh then .next s
  else
    let d := s.reread d
    let s := s.setDie die { d with rot := [], nodes := [] }
    let s := (d.llog.foldl (fun s e => s.rebuild die e) s).rejoin die
    let d := s.dieAt die
    outOf (s.setDie die { d with stopped := false }).settleGraphs

end Sys2Proof.Machine
end

