-- ==== Sys2Proof/Machine/HostDie.lean ====
section
/-! DEFINITION. The host die as the device sees it: command pages (R309, R310), and the harts' accesses with
their modes and translation (R109, R307, R308, R311). -/

namespace Sys2Proof.Machine

/-- A hart of the host die. -/
def State.hartAt (s : State) (h : Nat) : Hart := s.harts.get {} h

/-- Replacing a hart. -/
def State.setHart (s : State) (h : Nat) (x : Hart) : State := { s with harts := s.harts.set {} h x }

/-- R310: the commands that use ARG. -/
def usesArg (op : Nat) : Bool := op != 3 && op != 6

/-- R310: an ARG that the commands using it accept. -/
def argOk (a : Word) : Bool := a.toNat % 64 == 0 && a.toNat + 64 ≤ hbmEnd

/-- R310: what a command does as a privileged job's instruction would, with its result; or the HERR code. -/
def State.hostOp (s : State) (op die n : Nat) (arg : Word) : Except (BitVec 2) (Word × State) :=
  let q := s.wqAt die n
  let r : BitVec 512 := .ofNat 512 (ofBytes (s.rd arg.toNat 64))
  let ctl (q' : Option WQ) (g : State → State) : Except (BitVec 2) (Word × State) :=
    match q' with
    | some q' => .ok (q.stat, (g (s.putQueue die n q')).endIfDone die n)
    | none => .error 1
  if usesArg op && !argOk arg then .error 2
  else match op with
    | 1 =>
      if q.state == .free || q.ringparse then .error 1
      else if q.full then .ok (qStatus true false 0, s)
      else
        let s := s.putQueue die n { q with ents := q.ents ++ [.resv 0 0] }
        .ok (qStatus false false q.next, s.commitAt die n q.ents.length r false)
    | 2 =>
      if n < 16 || q.state == .free then .error 1
      else match if q.pops.isEmpty then s.popQueue die n else none with
        | some (t, r, s) => .ok (qStatus false false t, s.wr arg.toNat (toBytes 64 r.toNat))
        | none => .ok (qStatus true (q.state == .error && q.ents.isEmpty) 0, s)
    | 3 => .ok (q.stat, s)
    | 4 => ctl (q.create n r) fun s => s.freshQueue die n
    | 5 => ctl (q.restart r) id
    | 6 => ctl q.destroy id
    | _ => .ok (q.stat, s.wr arg.toNat q.image)

/-- R309, R310: a write of OP on a hart's command page. -/
def State.hostCmd (s : State) (hart op : Nat) : State :=
  let x := s.hartAt hart
  if 64 ≤ hart ∨ !s.hartsRun ∨ op = 0 ∨ 7 < op then s
  else if x.pending then s.setHart hart { x with herr := 3 }
  else match s.hostOp op x.die.toNat x.queue.toNat x.arg with
    | .ok (w, s) => s.setHart hart { x with hstat := w, pending := true }
    | .error e => s.setHart hart { x with hstat := .ofNat 64 (2 ^ 63), herr := e, pending := true }

/-- R309, R310: HSTAT is read and the page freed; a command completes before the read does. `k` is what
becomes of the value. -/
def State.readHstat (s : State) (hart : Nat) (k : Hart → Hart := id) : State :=
  let x := s.hartAt hart
  if 64 ≤ hart ∨ !s.hartsRun then s
  else s.setHart hart (k { x with rdata := x.hstat, pending := false, afault := false, pfault := false })

/-- Why a hart's access is not performed (R307, R308): an access fault, or a page fault of Sv57. -/
inductive HartTrap where
  | access | page
  deriving DecidableEq, Repr

/-- A hart's access that is performed, and the value it read; `k` is what becomes of that. -/
def State.hartGot (s : State) (hart : Nat) (k : Hart → Hart) (v : Word) : State :=
  s.setHart hart (k { s.hartAt hart with rdata := v, afault := false, pfault := false })

/-- A hart's access that is performed and reads nothing. -/
def State.hartDid (s : State) (hart : Nat) : State :=
  s.setHart hart { s.hartAt hart with afault := false, pfault := false }

/-- `satp` and `mstatus` of a hart (R307, log 36). -/
def HartCpu.satp (c : HartCpu) : Word := c.csr.get 0 0x180
@[inherit_doc HartCpu.satp] def HartCpu.mstatus (c : HartCpu) : Word := c.csr.get 0 0x300

/-- The code of a privilege mode (R307, log 36). -/
def HMode.code : HMode → Nat
  | .user => 0
  | .supervisor => 1
  | .machine => 3

/-- R307: a hart takes an exception or an interrupt (log 36): in supervisor mode where `medeleg` or `mideleg`
says so, else in machine mode; an interrupt at its own place of a vectored table. -/
def HartCpu.trap (c : HartCpu) (cause : Nat) (tval : Word) (intr : Bool := false) : HartCpu :=
  let m := c.mstatus.toNat
  let set (l : List (Nat × Word)) : SMap Word := l.foldl (fun r (p : Nat × Word) => SMap.set 0 r p.1 p.2) c.csr
  let entry (v : Word) : Word := (v &&& ~~~3) + if intr && flag v 0 then .ofNat 64 (4 * cause) else 0
  let why : Word := .ofNat 64 (cause + if intr then 2 ^ 63 else 0)
  if c.mode != .machine && flag (c.csr.get 0 (if intr then 0x303 else 0x302)) cause then
    let m := putBits (putBits (putBits m 5 1 (bits m 1 1)) 1 1 0) 8 1 c.mode.code
    { c with mode := .supervisor, pc := entry (c.csr.get 0 0x105),
             csr := set [(0x300, .ofNat 64 m), (0x141, c.pc), (0x142, why), (0x143, tval)] }
  else
    let m := putBits (putBits (putBits m 7 1 (bits m 3 1)) 3 1 0) 11 2 c.mode.code
    { c with mode := .machine, pc := entry (c.csr.get 0 0x305),
             csr := set [(0x300, .ofNat 64 m), (0x341, c.pc), (0x342, why), (0x343, tval)] }

/-- The cause of a trap that an access makes (R307, R308, log 36). -/
def HartTrap.cause : HartTrap → Bool → Nat
  | .access, write => if write then 7 else 5
  | .page, write => if write then 15 else 13

/-- R307, R308: an access at an address that raises an exception on the hart, which takes it. -/
def State.hartFault (s : State) (hart : Nat) (write : Bool) (a : Nat) (t : HartTrap := .access) : State :=
  let x := s.hartAt hart
  s.setHart hart { x with afault := t == .access, pfault := t == .page,
                          cpu := x.cpu.trap (t.cause write) (.ofNat 64 a) }

/-- A register of a hart that receives a value of `n` bytes: `x` with its sign or zeros before it, `f` with
ones (R307, log 36). -/
def HartCpu.put (c : HartCpu) (rd n : Nat) (signed : Bool) (v : Word) : HartCpu :=
  let low : Nat := v.toNat % 2 ^ (8 * n)
  let ones : Nat := 2 ^ 64 - 2 ^ (8 * n)
  if rd < 32 then
    { c with x := if rd = 0 then c.x
                  else c.x.set 0 rd (.ofNat 64 (if signed && low.testBit (8 * n - 1) then ones + low else low)) }
  else { c with f := c.f.set 0 (rd - 32) (.ofNat 64 (ones + low)) }

/-- R307: what a hart's access has returned goes to its register. -/
def Hart.keep (rd n : Nat) (signed : Bool) (x : Hart) : Hart := { x with cpu := x.cpu.put rd n signed x.rdata }

/-- R307: the mode whose rights a hart's loads and stores have: MPP's under MPRV (log 36). -/
def HartCpu.eff (c : HartCpu) : HMode :=
  if c.mode == .machine && flag c.mstatus 17 then
    match fld c.mstatus 11 2 with
    | 0 => .user
    | 1 => .supervisor
    | _ => .machine
  else c.mode

/-- R307: the lowest index bit of each level of Sv57. -/
def hartLevels : List Nat := [48, 39, 30, 21, 12]

/-- R307: whether a leaf of Sv57 permits an access of a mode (log 36). -/
def HartCpu.leafOk (c : HartCpu) (write : Bool) (e : Word) : Bool :=
  (if write then flag e 2 && flag e 7 else flag e 1 || (flag c.mstatus 19 && flag e 3)) && flag e 6 &&
    (if c.eff == .user then flag e 4 else !flag e 4 || flag c.mstatus 18)

/-- R307: whether a leaf of Sv57 permits a hart to execute (log 36). -/
def HartCpu.codeOk (c : HartCpu) (e : Word) : Bool := flag e 3 && flag e 6 && flag e 4 == (c.mode == .user)

/-- R307: a walk of Sv57 from a table to a leaf that permits the access (log 36). -/
def State.hartWalk (s : State) (ok : Word → Bool) (va : Nat) :
    List Nat → Nat → Except HartTrap Nat
  | [], _ => .error .page
  | lo :: rest, table =>
    let pte := table + 8 * bits va lo 9
    let e := s.rdWord pte
    let ppn := fld e 10 44
    if hbmEnd < pte + 8 then .error .access
    else if !flag e 0 || fld e 54 10 != 0 || (flag e 2 && !flag e 1) then .error .page
    else if flag e 1 || flag e 3 then
      if ppn % 2 ^ (lo - 12) == 0 && ok e then .ok (ppn * 4096 + va % 2 ^ lo) else .error .page
    else if flag e 4 || flag e 6 || flag e 7 then .error .page
    else State.hartWalk s ok va rest (ppn * 4096)

/-- R307: the physical address of a byte that a hart names in a mode. -/
def State.hartByte (s : State) (c : HartCpu) (m : HMode) (ok : Word → Bool) (a : Nat) : Except HartTrap Nat :=
  let a := a % 2 ^ 64
  if m == .machine || fld c.satp 60 4 != 10 then .ok a
  else if a / 2 ^ 56 != 0 && a / 2 ^ 56 != 255 then .error .page
  else s.hartWalk ok (a % 2 ^ 57) hartLevels (fld c.satp 0 44 * 4096)

/-- R307: the physical address of the `n` bytes of an access, which must follow one another. -/
def State.hartAddr (s : State) (hart : Nat) (write : Bool) (a n : Nat) : Except HartTrap Nat := do
  let c := (s.hartAt hart).cpu
  let pa ← s.hartByte c c.eff (c.leafOk write) a
  let last ← s.hartByte c c.eff (c.leafOk write) (a + (n - 1))
  if last = pa + (n - 1) then .ok pa else .error .access

/-- R309: an aligned 64-bit write to a hart's own command page; other places hold nothing. -/
def State.pageWrite (s : State) (hart off : Nat) (v : Word) : State :=
  let s := s.hartDid hart
  let x := s.hartAt hart
  match off with
  | 0x00 => s.setHart hart { x with die := v.extractLsb' 11 3, queue := v.setWidth 11 }
  | 0x08 => s.setHart hart { x with arg := v }
  | 0x10 => s.hostCmd hart (v.toNat % 8)
  | 0x20 => s.setHart hart { x with herr := x.herr &&& ~~~(v.setWidth 2) }
  | _ => s

/-- Where a hart's command page lies (R308). -/
def pageBase (hart : Nat) : Nat := 0x020000000000 + 0x1000 * hart

/-- R307, R308: an access of a hart to its command page, which user mode does not reach; past it lies another
hart's page. -/
def State.onPage (s : State) (hart : Nat) (write : Bool) (off : Nat) (f : State → State) : Out :=
  if 64 ≤ hart ∨ !s.hartsRun then .next s
  else if 0x1000 ≤ off ∨ (s.hartAt hart).cpu.eff = .user then .next (s.hartFault hart write (pageBase hart + off))
  else .next (f s)

/-- A write to a hart's command page (R308, R309). -/
def execCommandPageWrite (hart off : Nat) (v : Word) (s : State) : Out :=
  s.onPage hart true off fun s => s.pageWrite hart off v

/-- PUSH (R310). -/
def execCmdPush (hart : Nat) (s : State) : Out := s.onPage hart true 0x10 fun s => s.hostCmd hart 1
/-- POP (R310). -/
def execCmdPop (hart : Nat) (s : State) : Out := s.onPage hart true 0x10 fun s => s.hostCmd hart 2
/-- STAT (R310). -/
def execCmdStat (hart : Nat) (s : State) : Out := s.onPage hart true 0x10 fun s => s.hostCmd hart 3
/-- CREATE (R310). -/
def execCmdCreate (hart : Nat) (s : State) : Out := s.onPage hart true 0x10 fun s => s.hostCmd hart 4
/-- RESTART (R310). -/
def execCmdRestart (hart : Nat) (s : State) : Out := s.onPage hart true 0x10 fun s => s.hostCmd hart 5
/-- DESTROY (R310). -/
def execCmdDestroy (hart : Nat) (s : State) : Out := s.onPage hart true 0x10 fun s => s.hostCmd hart 6
/-- READ (R310). -/
def execCmdRead (hart : Nat) (s : State) : Out := s.onPage hart true 0x10 fun s => s.hostCmd hart 7

/-- A read of HSTAT (R309, R310). -/
def execHstatRead (hart : Nat) (s : State) : Out := s.onPage hart false 0x18 fun s => s.readHstat hart

/-- R309: what an aligned 64-bit read of a command page returns, but for HSTAT. -/
def Hart.reg (x : Hart) (off : Nat) : Word :=
  match off with
  | 0x00 => .ofNat 64 (x.die.toNat * 2048 + x.queue.toNat)
  | 0x08 => x.arg
  | 0x20 => x.herr.setWidth 64
  | _ => 0

/-- R308: what an access of a hart reaches. -/
inductive HartPlace where
  | hbm
  | page (off : Nat)
  | dview (core off : Nat)
  | table (n off : Nat)
  | fault
  deriving DecidableEq, Repr

/-- R308: the host die's physical map. Of what module firmware owns there (R307), supervisor mode reaches
the command page alone, and user mode nothing. -/
def hartPlace (m : HMode) (hart a n : Nat) : HartPlace :=
  let p := pageBase hart
  if a + n ≤ hbmEnd then .hbm
  else if p ≤ a ∧ a + n ≤ p + 0x1000 ∧ m ≠ .user then .page (a - p)
  else if m ≠ .machine then .fault
  else if 0x021000000000 ≤ a ∧ a + n ≤ 0x021000000000 + 0x10000 * 768 then
    .dview ((a - 0x021000000000) / 0x10000) ((a - 0x021000000000) % 0x10000)
  else if 0x022000000000 ≤ a ∧ a + n ≤ 0x022000000000 + 0x10000 ∧ a % 64 + n ≤ 64 then
    .table ((a - 0x022000000000) / 64) (a % 64)
  else .fault

/-- R307, R308: where a hart's access goes, with the physical address; or the exception it raises. -/
def State.hartReach (s : State) (hart : Nat) (write : Bool) (a n : Nat) : Except HartTrap (HartPlace × Nat) := do
  let pa ← s.hartAddr hart write a n
  .ok (hartPlace (s.hartAt hart).cpu.eff hart pa n, pa)

/-- R109: the place of an atomic of a hart: aligned words of HBM. -/
def State.hartAtom (s : State) (hart : Nat) (write : Bool) (a n : Nat) : Except HartTrap Nat := do
  let (p, pa) ← s.hartReach hart write a n
  if (n == 4 || n == 8) && pa % n == 0 && p == .hbm then .ok pa else .error .access

/-- R109: a hart's atomic at the home die: its operation on the value in memory. -/
def State.hartAmo (s : State) (hart rd a n : Nat) (f : Nat → Nat) : State :=
  match s.hartAtom hart true a n with
  | .ok pa =>
    let old := ofBytes (s.rd pa n)
    (s.wr pa (toBytes n (f old))).hartGot hart (Hart.keep rd n true) (.ofNat 64 old)
  | .error t => s.hartFault hart true a t

/-- R109: the lesser or the greater of two values of `n` bytes. -/
def amoPick (greater signed : Bool) (n old v : Nat) : Nat :=
  let key (x : Nat) : Nat := (x + if signed then 2 ^ (8 * n - 1) else 0) % 2 ^ (8 * n)
  if decide (key old < key v) == greater then v else old

/-- R307: a load that reserves its word (log 36). -/
def State.hartReserve (s : State) (hart rd a n : Nat) : State :=
  match s.hartAtom hart false a n with
  | .ok pa =>
    let v := ofBytes (s.rd pa n)
    s.hartGot hart (fun x => { Hart.keep rd n true x with resv := some (pa, n, v) }) (.ofNat 64 v)
  | .error t => s.hartFault hart false a t

/-- R307: a conditional store. One to the reserved word, unchanged since, may succeed, and any may fail;
it returns whether it failed, and the reservation ends (log 36). -/
def State.hartCond (s : State) (hart rd a n : Nat) (v : Word) : State :=
  match s.hartAtom hart true a n with
  | .ok pa =>
    let ok := (s.hartAt hart).resv == some (pa, n, ofBytes (s.rd pa n)) && Config.freeNat s.free % 2 == 0
    let s := s.nextFree
    (if ok then s.wr pa (toBytes n v.toNat) else s).hartGot hart
      (fun x => { Hart.keep rd 8 false x with resv := none }) (if ok then 0 else 1)
  | .error t => s.hartFault hart true a t

/-- Bytes of an export-table entry (R308). -/
def State.exportGet (s : State) (n off len : Nat) : Nat := (s.exportRaw.get 0 n).toNat / 2 ^ (8 * off) % 2 ^ (8 * len)

/-- R308, R313: machine mode writes bytes of an export-table entry; the entry is what its bytes then hold. -/
def State.exportSet (s : State) (n off len : Nat) (v : Word) : State :=
  let b : BitVec 512 := .ofNat 512 (putBits (s.exportRaw.get 0 n).toNat (8 * off) (8 * len) v.toNat)
  s.exportPut n b ((Config.exportOf b).filter (exportEntOk n))

/-- R109, R308: a hart's load of `n` bytes. -/
def State.hartLoad (s : State) (hart rd a n : Nat) (signed : Bool) : Out :=
  let got (s : State) (v : Word) : State := s.hartGot hart (Hart.keep rd n signed) v
  match s.hartReach hart false a n with
  | .error t => .next (s.hartFault hart false a t)
  | .ok (p, pa) => match p with
    | .hbm => .next (got s (.ofNat 64 (ofBytes (s.rd pa n))))
    | .page off =>
      if n ≠ 8 ∨ off % 8 ≠ 0 then .next (got s.nextFree (.ofNat 64 (Config.freeNat s.free)))
      else if off = 0x18 then .next (s.readHstat hart (Hart.keep rd n signed))
      else .next (got s ((s.hartAt hart).reg off))
    | .dview core off =>
      match execDebugViewRead core off n s with
      | .next s' => .next (got s' ((s'.coreAt core).dview.data.setWidth 64))
      | r => r
    | .table k off => .next (got s (.ofNat 64 (s.exportGet k off n)))
    | .fault => .next (s.hartFault hart false a)

/-- R109, R308: a hart's store of `n` bytes. -/
def State.hartStore (s : State) (hart a n : Nat) (v : Word) : Out :=
  match s.hartReach hart true a n with
  | .error t => .next (s.hartFault hart true a t)
  | .ok (p, pa) => match p with
    | .hbm => .next ((s.wr pa (toBytes n v.toNat)).hartDid hart)
    | .page off => if n ≠ 8 ∨ off % 8 ≠ 0 then .next (s.hartDid hart) else .next (s.pageWrite hart off v)
    | .dview core off =>
      match execDebugViewWrite core off n v s with
      | .next s' => .next (s'.hartDid hart)
      | r => r
    | .table k off => .next ((s.exportSet k off n v).hartDid hart)
    | .fault => .next (s.hartFault hart true a)

/-- A hart's access (R109), by its mode and translation (R307): it is performed at once at its home, what it
returns goes to its register, and a `FENCE` has nothing to wait for (log 10). -/
def execHostHartAccess (hart : Nat) (op : HartOp) (s : State) : Out :=
  if 64 ≤ hart ∨ !s.hartsRun then .next s
  else match op with
    | .load rd sg a n => s.hartLoad hart rd a (min n 8) sg
    | .store a n v => s.hartStore hart a (min n 8) v
    | .amoAdd rd a n v => .next (s.hartAmo hart rd a n fun x => x + v.toNat)
    | .amoSwap rd a n v => .next (s.hartAmo hart rd a n fun _ => v.toNat)
    | .amoAnd rd a n v => .next (s.hartAmo hart rd a n fun x => x &&& v.toNat)
    | .amoOr rd a n v => .next (s.hartAmo hart rd a n fun x => x ||| v.toNat)
    | .amoXor rd a n v => .next (s.hartAmo hart rd a n fun x => x ^^^ v.toNat)
    | .amoMin rd sg a n v => .next (s.hartAmo hart rd a n fun x => amoPick false sg n x v.toNat)
    | .amoMax rd sg a n v => .next (s.hartAmo hart rd a n fun x => amoPick true sg n x v.toNat)
    | .loadReserved rd a n => .next (s.hartReserve hart rd a n)
    | .storeConditional rd a n v => .next (s.hartCond hart rd a n v)
    | .fence => .next s

end Sys2Proof.Machine
end

