-- ==== Sys2Proof/Machine/Parser.lean ====
section
/-! DEFINITION. The front-end parser (R170, R171, R306) and the reservation timeout (R164, R318). -/

namespace Sys2Proof.Machine

/-- The ring-parse queues that a die's parser serves (R306). -/
def Die.ringQueues (d : Die) : List Nat :=
  (d.wq.filter fun (_, q) => q.state == .active && q.ringparse).map (·.1)

/-- R306: the queue after another in the rotation, which goes by rising number and begins again at the lowest,
from a queue that has left it too (DESIGN CHOICE, log 55). -/
def nextIn (l : List Nat) (k : Nat) : Option Nat := (l.find? (k < ·)).or l.head?

/-- R306: the queue the parser serves. -/
def Die.serving (d : Die) : Option Nat :=
  let l := d.ringQueues
  match d.parser.cur with
  | some k => if l.contains k then some k else nextIn l k
  | none => l.head?

/-- R171: a handler packet. -/
def handlerPacket (q reason : Nat) (ridx : BitVec 32) (header : Word) (exp : Nat) (t : Word) : BitVec 512 :=
  .ofNat 512 (0x8E0 + (q + reason * 65536) * 2 ^ 64 + ridx.toNat * 2 ^ 128 + header.toNat * 2 ^ 192 +
    exp * 2 ^ 256 + t.toNat * 2 ^ 320)

/-- R171: a queue goes to ERROR; its sibling receives a handler packet, or the Reeve a report. -/
def State.parseError (s : State) (die q reason : Nat) (header : Word) (exp : Nat) : State :=
  let w := s.wqAt die q
  let s := s.setWq die q { w with state := .error }
  let sib := s.wqAt die w.sibling
  if sib.takes then
    let s := s.putQueue die w.sibling { sib with ents := sib.ents ++ [.resv 0 0] }
    s.commitAt die w.sibling sib.ents.length (handlerPacket q reason w.ridx header exp s.mtime) false
  else s.report die (.parser q reason)

/-- R170: the place of a write of 8 bytes that the parser makes; none where it fails. A RIDXADDR that is not a
multiple of 8 (R169 gives `RESTART` no check) is translated at its first byte, and the 8 bytes follow one
another from there: DESIGN CHOICE (log 55). -/
def State.publishAt (s : State) (w : WQ) (root : BitVec 40) : Option Nat :=
  let a := w.ridxAddr.toNat
  if !canonical a then none
  else (permit (s.walk w.asid (a % 2 ^ 57) levels (root.toNat * 4096)) .write true a).toOption

/-- R170: one packet of a ring-parse queue. -/
def State.parse (s : State) (die q : Nat) : State :=
  let w := s.wqAt die q
  let exp := w.ridx.toNat / 2 ^ w.pktlog % 65536
  let a := (fld w.desc 128 64 + 64 * (w.ridx.toNat % 2 ^ w.pktlog)) % 2 ^ 64
  let root := (s.dieAt die).roots.get none w.asid.toNat
  match root.bind fun p => s.readAs w.asid p true a 64 with
  | none => s.parseError die q 4 0 exp
  | some b =>
    let r : BitVec 512 := .ofNat 512 (ofBytes b)
    let hd : Word := r.extractLsb' 0 64
    let gen := fld hd 16 16
    if gen = (exp + 65535) % 65536 then s
    else if gen ≠ exp then s.parseError die q 3 hd exp
    else if 0xF0 ≤ fld hd 0 8 then s.parseError die q 1 hd exp
    else if fld hd 8 8 = 0 ∨ 8 < fld hd 8 8 then s.parseError die q 2 hd exp
    else if w.full then s
    else
      let n := w.ents.length
      let s := s.putQueue die q { w with ents := w.ents ++ [.resv 0 0] }
      let s := s.commitAt die q n r false
      let w := s.wqAt die q
      let ridx := w.ridx + 1
      let s := s.setWq die q { w with ridx := ridx }
      if w.ridxAddr = 0 then s
      else match root.bind (s.publishAt w) with
        | some pa => s.wr pa (toBytes 8 ridx.toNat)
        | none => s.parseError die q 5 hd exp

/-- R306, R318: a queue's slice: a launch queue's own timeout, or what the Reeve has set for another queue
(log 55). -/
def Die.slice (d : Die) (q : Nat) : Nat := if q < 16 then (d.lq.get {} q).tSlice else d.reeve.slices.get 1000 q

/-- R306: a queue has used up its slice. -/
def Die.sliceOver (d : Die) (q : Nat) : Bool := d.parser.cur == some q && d.slice q ≤ d.parser.usedNs

/-- The parser's run of steps for one packet of the queue it serves (R170, R306): a slice that is over
begins no run, and a queue that the parser comes to has its whole slice. A queue whose run has ended early stays the
one served for the rest of its slice (DESIGN CHOICE, log 55). -/
def execParserPacket (die q : Nat) (s : State) : Out :=
  let d := s.dieAt die
  if d.serving != some q || d.sliceOver q then .next s
  else
    let used := if d.parser.cur == some q then d.parser.usedNs else 0
    .next ((s.setDie die { d with parser := ⟨some q, used⟩ }).parse die q)

/-- A time slice ends and the parser goes on to the next queue (R306). -/
def execParserSliceExpiry (die : Nat) (s : State) : Out :=
  let d := s.dieAt die
  match d.serving with
  | some q =>
    if d.sliceOver q then .next (s.setDie die { d with parser := ⟨nextIn d.ringQueues q, 0⟩ })
    else .next s
  | none => .next s

/-- R318: the reservation timeout of the launch queue of a ticket's holder; the default where the holder
has left. -/
def State.resvLimit (s : State) (die uid : Nat) : Nat :=
  let found := s.cores.findSome? fun (k, c) =>
    if dieOf k = die then (c.main.toList ++ c.pre.toList).find? (·.uid == uid) else none
  match found with
  | some i => (s.lqAt i.launch.qdie i.launch.q).tResv
  | none => ({} : LaunchQ).tResv

/-- A held ticket's time is over: it is committed as a void record (R164, R318), which may leave a launch
queue empty (R281). -/
def execReservationTimeout (die q ticket : Nat) (s : State) : Out :=
  let w := s.wqAt die q
  let k := (BitVec.ofNat 32 ticket - w.head).toNat
  match w.ents[k]? with
  | some (.resv uid held) =>
    if (s.dieAt die).reeve.up && s.resvLimit die uid ≤ held then
      .next (((s.putQueue die q { w with ents := w.ents.set k (.rec_ 0 true false) }).countSent die w.asid 1)
        |>.endIfDone die q)
    else .next s
  | _ => .next s

end Sys2Proof.Machine
end

