-- ==== Sys2Proof/Machine/QueueCtl.lean ====
section
/-! DEFINITION. The work-queue instructions that can leave a launch queue empty, and so end a privileged graph
(R281): `WQCMT` and `WQCTL` (R166, R169). -/

namespace Sys2Proof.Machine

/-- `WQCMT` (R166): a release at `.mod`. A void record may leave a launch queue empty (R281). -/
def execWqcmt (h : Head) (d : Dst) (a b c : Src) (s : State) : Out :=
  issue (.wqcmt h d a b c) s fun s =>
    let t : BitVec 32 := (s.val h .n64 b).setWidth 32
    let die := dieOf s.core
    .try_ s (do
      let n ← s.queueOpd h a
      let (_, l) ← s.recordAt .read h c
      let q := s.wqAt die n
      let k := (t - q.head).toNat
      match q.ents[k]? with
      | some (.resv u _) => if u == s.inst.uid then .ok (n, l, k) else queueBad n
      | _ => queueBad n) fun (n, l, k) =>
    released s
      (.done (((s.commitAt die n k (.ofNat 512 (s.loadVal s.stream l)) false).endIfDone die n).result d
        (qStatus false false t)))

/-- A `WQCTL` whose operation on the queue is `f`, followed by `g` (R169): the `WQSTAT` word from before
is the result. A release, it reads its descriptor once the stream's earlier accesses are performed (R104). -/
def wqctl (h : Head) (d : Dst) (a b : Src) (reads : Bool) (f : Nat → WQ → BitVec 512 → Option WQ)
    (g : Nat → State → State) (s : State) : Res :=
  let die := dieOf s.core
  .try_ s (do
    let n ← s.queueOpd h a
    .ok (n, ← if reads then do .ok (← s.recordAt .read h b).2 else .ok [])) fun (n, l) =>
  released s (
    let q := s.wqAt die n
    match f n q (.ofNat 512 (s.loadVal s.stream l)) with
    | some q' => .done (((g n (s.putQueue die n q')).endIfDone die n).result d q.stat)
    | none => .trap ⟨.queueState, .ofNat 64 n⟩ s)

/-- `WQCTL.CREATE` (R169). -/
def execWqctlCreate (h : Head) (d : Dst) (a b : Src) (s : State) : Out :=
  issue (.wqctlCreate h d a b) s fun s =>
    wqctl h d a b true (fun n q r => q.create n r) (fun n s => s.freshQueue (dieOf s.core) n) s

/-- `WQCTL.RESTART` (R169). -/
def execWqctlRestart (h : Head) (d : Dst) (a b : Src) (s : State) : Out :=
  issue (.wqctlRestart h d a b) s (wqctl h d a b true (fun _ q r => q.restart r) fun _ s => s)

/-- `WQCTL.DESTROY` (R169). -/
def execWqctlDestroy (h : Head) (d : Dst) (a b : Src) (s : State) : Out :=
  issue (.wqctlDestroy h d a b) s (wqctl h d a b false (fun _ q _ => q.destroy) fun _ s => s)

/-- `WQCTL.READ` (R169). -/
def execWqctlRead (h : Head) (d : Dst) (a b : Src) (s : State) : Out :=
  issue (.wqctlRead h d a b) s fun s =>
    .try_ s (do let n ← s.queueOpd h a; .ok (n, (← s.recordAt .write h b).2)) fun (n, l) =>
      let q := s.wqAt (dieOf s.core) n
      released s (.done ((s.pokes (some s.me) (l.zip q.image)).result d q.stat))

end Sys2Proof.Machine
end

