-- ==== Sys2Proof/Machine/VecMem.lean ====
section
/-! DEFINITION. Vector memory (R202 to R206). -/

namespace Sys2Proof.Machine

/-- Bytes of an element: 4-bit elements share a byte (R55, R202). -/
def elemBytes (t : Ty) : Nat := max 1 (t.width / 8)

/-- R203: every active element checked, in lane order: the element's lane and places. -/
def State.elems (s : State) (m : Fin 8) (ty : Ty) (acc : Acc) (addr : Nat → T Nat) :
    T (List (Nat × List Loc)) :=
  ((List.range ty.lanes).filter (s.act m ty.width)).mapM fun i => do
    let a ← addr i
    need (a % elemBytes ty == 0) .align (.ofNat 64 a)
    .ok (i, ← s.at_ acc a (elemBytes ty))

/-- A load's result (R202): each active element into its lane. -/
def State.vloadLanes (s : State) (m : Fin 8) (ty : Ty) (d : Dst) (l : List (Nat × List Loc)) :
    T State :=
  s.lanewise m ty d fun i => match l.find? (·.1 == i) with
    | some (_, p) =>
      let b := s.loadVal s.stream p
      .ok (if ty.width = 4 then bits b (4 * (i % 2)) 4 else b, 0)
    | none => .ok (0, 0)

/-- A vector load (R202, R203). -/
def State.vload (s : State) (m : Fin 8) (ty : Ty) (d : Dst) (addr : Nat → T Nat) : Res :=
  .of s (do s.vloadLanes m ty d (← s.elems m ty .read addr))

/-- A vector store (R202, R203): elements in lane order; 4-bit lanes are stored by the byte. -/
def State.vstore (s : State) (h : Head) (m : Fin 8) (ty : Ty) (c : VSrc) (addr : Nat → T Nat) : Res :=
  let data (i : Nat) : T Nat := do .ok (← s.vlane h ty c i).1
  .try_ s (do
    let l ← s.elems m ty .write addr
    if ty.width = 4 then
      (l.filter fun e => e.1 % 2 == 0).mapM fun (i, p) => do
        .ok (p.zip (toBytes 1 ((← data i) + 16 * (← data (i + 1)))))
    else l.mapM fun (i, p) => do .ok (p.zip (toBytes (elemBytes ty) (← data i))))
    (s.store false false)

/-- R202: the address of an element of `VLD` and `VST`. -/
def unitAddr (ty : Ty) (a i : Nat) : T Nat :=
  .ok ((a + (if ty.width = 4 then i / 2 else i * elemBytes ty)) % 2 ^ 64)

/-- R202: the address of an element of `VLDS` and `VSTS`; the product modulo 2⁶⁴ makes the stride
signed. -/
def strideAddr (a k : Word) (i : Nat) : T Nat := .ok (a + .ofNat 64 i * k).toNat

/-- R202: the address of an element of `VGATH` and `VSCAT`. -/
def State.indexAddr (s : State) (h : Head) (ty : Ty) (a : Word) (b : VSrc) (k i : Nat) : T Nat := do
  .ok ((a.toNat + (← s.vlane h ty b i).1 * 2 ^ k) % 2 ^ 64)

/-- `VLD` (R202). -/
def execVld (h : Head) (m : Fin 8) (ty : Ty) (d : Dst) (a b : Src) (s : State) : Out :=
  issue (.vld h m ty d a b) s fun s => s.vload m ty d (unitAddr ty (s.addr h a b))

/-- `VST` (R202). -/
def execVst (h : Head) (m : Fin 8) (ty : Ty) (a b : Src) (c : VSrc) (s : State) : Out :=
  issue (.vst h m ty a b c) s fun s => s.vstore h m ty c (unitAddr ty (s.addr h a b))

/-- `VLDS` (R202). -/
def execVlds (h : Head) (m : Fin 8) (ty : Ty) (d : Dst) (a b : Src) (s : State) : Out :=
  issue (.vlds h m ty d a b) s fun s =>
    s.vload m ty d (strideAddr (s.val h .i64 a) (s.val h .i64 b))

/-- `VSTS` (R202). -/
def execVsts (h : Head) (m : Fin 8) (ty : Ty) (a b : Src) (c : VSrc) (s : State) : Out :=
  issue (.vsts h m ty a b c) s fun s =>
    s.vstore h m ty c (strideAddr (s.val h .i64 a) (s.val h .i64 b))

/-- `VGATH` (R202). -/
def execVgath (h : Head) (m : Fin 8) (ty : Ty) (k : Fin 8) (d : Dst) (a : Src) (b : VSrc) (s : State) :
    Out :=
  issue (.vgath h m ty k d a b) s fun s => s.vload m ty d (s.indexAddr h ty (s.val h .i64 a) b k)

/-- `VSCAT` (R202). -/
def execVscat (h : Head) (m : Fin 8) (ty : Ty) (k : Fin 8) (a : Src) (b c : VSrc) (s : State) : Out :=
  issue (.vscat h m ty k a b c) s fun s =>
    s.vstore h m ty c (s.indexAddr h ty (s.val h .i64 a) b k)

/-- R205: one active lane of a sheaf load from the stook at `a`. -/
def State.sheafLane (s : State) (ty : Ty) (w8 : Bool) (j0 : Nat) (pol : Pol) (a i : Nat) :
    T (Nat × Flags) := do
  let j := j0 + i / 32
  let ha := (a + hdrAt j) % 2 ^ 64
  let (hl, cl) ← bothAt (s.at_ .read ha 2) (s.at_ .read ((a + codeAt w8 j (i % 32)) % 2 ^ 64) 1)
  let h := Hdr.of (s.loadVal s.stream hl)
  if !h.ok then
    if s.str.shpol then .ok (0, Flags.shz) else raiseT .sheafCheck (.ofNat 64 ha)
  else do
    s.inst.sound (if h.sel == 3 then [.cb (h.aux % 8)] else [])
    match elemOf s.inst.cbAt w8 h.sel h.aux (codeOf w8 (i % 32) (s.loadVal s.stream cl)) with
    | .bad n => if s.str.cbpol then .ok (0, Flags.cbz) else raiseT .cbInvalid (.ofNat 64 n)
    | .val x =>
      match ty.convert s.str.rnd pol false (x.scale ((h.scale : Int) - 127)) with
      | some r => .ok r
      | none => raiseT .ovfTrap (.ofNat 64 i)

/-- `VLDSH` (R205). -/
def execVldsh (h : Head) (m : Fin 8) (ty : Ty) (w8 : Bool) (j0 : Fin 8) (pol : Option Pol) (d : Dst)
    (a : Src) (s : State) : Out :=
  issue (.vldsh h m ty w8 j0 pol d a) s fun s =>
    let ad := s.val h .i64 a
    .of s (do
      need (ad.toNat % 16 == 0) .align ad
      s.lanewise m ty d (s.sheafLane ty w8 j0 (s.policy pol) ad.toNat))

/-- R206: one sheaf of a quantising store: its places and bytes, and its flags; none without an
active lane. A sheaf any of whose bytes lies in an armed tbar names its first code byte (DESIGN CHOICE, log 27). -/
def State.sheafOut (s : State) (h : Head) (m : Fin 8) (ty : Ty) (b : QuantBy) (c : VSrc) (a j lane0 : Nat) :
    T (List (List (Loc × Byte)) × Flags) := do
  let on (t : Nat) := s.act m ty.width (lane0 + t)
  if !(List.range 32).any on then .ok ([], 0)
  else
    let code (n : Nat) := s.at_ .write ((a + codeAt b.w8 j 0) % 2 ^ 64) n
    let (hl, _) ← bothAt (s.at_ .write ((a + hdrAt j) % 2 ^ 64) 2) (code 1)
    let cl ← code (if b.w8 then 32 else 16)
    let x ← (List.range 32).mapM fun t => do
      if on t then .ok (ty.decode (← s.vlane h ty c (lane0 + t)).1) else .ok (.fin false 0 0)
    let q := quantise s.inst.cbAt b (s.free + lane0) x
    .ok (hl.zip (toBytes 2 (q.header b)) :: (cl.zip (q.bytes b.w8)).map ([·]), quantFlags x)

/-- `VSTSH` (R206). -/
def execVstsh (h : Head) (m : Fin 8) (ty : Ty) (selmask aux : Fin 16) (w8 : Bool) (j0 bank : Fin 8)
    (half : Bool) (a : Src) (c : VSrc) (s : State) : Out :=
  issue (.vstsh h m ty selmask aux w8 j0 bank half a c) s fun s =>
    let ad := s.val h .i64 a
    .try_ s (do
      need (ad.toNat % 16 == 0) .align ad
      (List.range (ty.lanes / 32)).mapM fun k =>
        s.sheafOut h m ty ⟨w8, selmask, aux, bank, half⟩ c ad.toNat (j0 + k) (32 * k)) fun l =>
    let s' := { s with free := s.free + 256 }
    match s'.store false false (l.map (·.1)).flatten with
    | .done t => .done (t.addFlags (l.foldl (fun r p => r ||| p.2) 0))
    | _ => .hold s

end Sys2Proof.Machine
end

