-- ==== Sys2Proof/Machine/VecMove.lean ====
section
/-! DEFINITION. Vector conversions (R192 to R195), permutes (R196), compares, selection and masks
(R188 to R191). -/

namespace Sys2Proof.Machine

/-- The source lane that fills lane `t` of a conversion of one part, where one does (R192). -/
def cvtLane (wd ws part t : Nat) : Option Nat :=
  let n := 2048 / max wd ws
  if wd ≤ ws then (if part * n ≤ t ∧ t < part * n + n then some (t - part * n) else none)
  else some (part * n + t)

/-- `VCVT` (R192). -/
def execVcvt (h : Head) (m : Fin 8) (dty sty : Ty) (pol : Option Pol) (part : Fin 16) (d : Dst)
    (a : VSrc) (s : State) : Out :=
  issue (.vcvt h m dty sty pol part d a) s fun s =>
    let src (t : Nat) := cvtLane dty.width sty.width part t
    .of s (s.someLanes (fun t => s.act m dty.width t && (src t).isSome) dty d fun t => do
      let (x, f) ← s.vlane h sty a ((src t).getD 0)
      match dty.convertTy sty s.str.rnd (s.policy pol) x with
      | some (z, k) => .ok (z, f ||| k)
      | none => raiseT .ovfTrap (.ofNat 64 t))

/-- R195: the value a lane of an index takes from its usable entry. -/
def cbxLane (ty : Ty) (kind : Nat) (e : CbEntry) (mode : BitVec 2) (k : Nat) : Nat × Flags :=
  match kind with
  | 0 => rnd ty (fld e.val 0 16)
  | 1 => rnd ty (fld e.val (16 * k) 16)
  | _ => (fld e.val (8 * k) 8, 0)
where rnd (ty : Ty) (p : Nat) : Nat × Flags :=
  let x := Ty.f16.decode p
  let (z, f) := ty.rndFl mode x
  (z, f ||| x.nv)

/-- Lanes that one index fills (R195). -/
def cbxPer : Nat → Nat
  | 0 => 1
  | 1 => 4
  | _ => 8

/-- `VCBX` (R195). -/
def execVcbx (h : Head) (m : Fin 8) (ty : Ty) (bank : Fin 8) (kind : Fin 4) (part : Fin 8) (d : Dst)
    (a : VSrc) (s : State) : Out :=
  issue (.vcbx h m ty bank kind part d a) s fun s =>
    let per := cbxPer kind
    let n := ty.lanes / per
    .of s (s.lanewise m ty d fun i => do
      let (x, _) ← s.vlane h .n8 a (part * n + i / per)
      let e := s.inst.entryCb bank x
      if e.ok kind then .ok (cbxLane ty kind e s.str.rnd (i % per))
      else if s.str.cbpol then .ok (0, Flags.cbz)
      else raiseT .cbInvalid (.ofNat 64 (256 * bank + x)))

/-- `VPACK` (R193): the sources are read at twice the width, a literal too (log 15). -/
def execVpack (h : Head) (m : Fin 8) (ty : Ty) (d : Dst) (a b : VSrc) (s : State) : Out :=
  issue (.vpack h m ty d a b) s fun s =>
    let wide := Ty.intOf ty.signed (2 * ty.width)
    let n := ty.lanes / 2
    .of s (s.lanewise m ty d fun i => do
      let (x, f) ← if i < n then s.vlane h wide a i else s.vlane h wide b (i - n)
      let (z, k) := ty.satInt (wide.int x)
      .ok (z, f ||| k))

/-- `VUNPACK` (R193): the source is read at half the width, a literal too (log 15). -/
def execVunpack (h : Head) (m : Fin 8) (ty : Ty) (hi : Bool) (d : Dst) (a : VSrc) (s : State) : Out :=
  issue (.vunpack h m ty hi d a) s fun s =>
    let half := Ty.intOf ty.signed (ty.width / 2)
    .of s (s.lanewise m ty d fun i => do
      let (x, f) ← s.vlane h half a (bit hi * ty.lanes + i)
      .ok (ty.wrap (half.int x), f))

/-- R194: a × 2^b, the exponent as far as any type can tell it. -/
def ldexpF (ty : Ty) (mode : BitVec 2) (a : Fl) (b : Int) : Nat × Flags :=
  match a with
  | .fin n s e => ty.rnd mode n s (e + max (-4096) (min 4096 b)) false
  | _ => let (z, f) := ty.rndFl mode a; (z, f ||| a.nv)

/-- `VLDEXP` (R194). -/
def execVldexp (h : Head) (m : Fin 8) (ty : Ty) (d : Dst) (a b : VSrc) (s : State) : Out :=
  issue (.vldexp h m ty d a b) s fun s =>
    let ity := Ty.intOf true ty.width
    .of s (s.lanewise m ty d fun i => do
      let (x, f) ← s.vlane h ty a i
      let (y, g) ← s.vlane h ity b i
      let (z, k) := ldexpF ty s.str.rnd (ty.decode x) (ity.int y)
      .ok (z, f ||| g ||| k))

/-- A lane of a table of a permute (R196): of an expanded table only the active lanes are expanded
(R183), and any other is a free value (log 5). `k` is the table's number. -/
def State.tableLane (s : State) (h : Head) (m : Fin 8) (ty : Ty) (k : Nat) (x : VSrc) (i : Nat) :
    T (Nat × Flags) :=
  match x with
  | .cb _ _ =>
    if s.act m ty.width i then s.vlane h ty x i
    else .ok (Config.freeNat (s.free + 256 * k + i) % 2 ^ ty.width, 0)
  | _ => s.vlane h ty x i

/-- All lanes of two tables, lane by lane, with the flags of their expansion. -/
def tables (f g : Nat → T (Nat × Flags)) : List Nat → T (List (Nat × Nat) × Flags)
  | [] => .ok ([], 0)
  | i :: t => do
    let (x, p) ← f i
    let (y, q) ← g i
    let (r, k) ← tables f g t
    .ok ((x, y) :: r, p ||| q ||| k)

/-- A permute of two tables (R196): `pick` names, for a result lane, the lane of the concatenation it
takes; none gives 0. `idx` reads what else a lane's choice needs. It sets no flag of its own, but those of
its operands' expansion (log 67). A lane's entries are expanded in the order A, index, other table (DESIGN
CHOICE, log 28). -/
def State.permute (s : State) (h : Head) (m : Fin 8) (ty : Ty) (d : Dst) (a b : VSrc)
    (idx : Nat → T (Nat × Flags)) (pick : Nat → Nat → Option Nat) : Res :=
  .of s (do
    let (l, f) ← tables (fun i => do
      let r ← s.tableLane h m ty 0 a i
      if s.act m ty.width i then let _ ← idx i
      .ok r) (s.tableLane h m ty 1 b) (List.range ty.lanes)
    let all := l.map (·.1) ++ l.map (·.2)
    let s' ← s.lanewise m ty d fun i => do
      let (k, g) ← idx i
      .ok (match pick i k with
        | some j => all.getD j 0
        | none => 0, g)
    .ok { s'.addFlags f with free := s.free + 512 })

/-- No index. -/
def noIdx (_ : Nat) : T (Nat × Flags) := .ok (0, 0)

/-- `VSHUF` (R196). -/
def execVshuf (h : Head) (m : Fin 8) (ty : Ty) (d : Dst) (a b c : VSrc) (s : State) : Out :=
  issue (.vshuf h m ty d a b c) s fun s =>
    s.permute h m ty d a c (s.vlane h ty b) fun _ k => some (k % (2 * ty.lanes))

/-- R196: the pattern `VBCAST` places in every lane. -/
def State.bcast (s : State) (h : Head) (ty : Ty) (a : Src) : Nat :=
  match a with
  | .imm _ | .lit => (s.val h (if ty.isInt then .i64 else ty) a).toNat % 2 ^ ty.width
  | _ => (s.val h .i64 a).toNat % 2 ^ ty.width

/-- `VBCAST` (R196). -/
def execVbcast (h : Head) (m : Fin 8) (ty : Ty) (d : Dst) (a : Src) (s : State) : Out :=
  issue (.vbcast h m ty d a) s fun s => .of s (s.lanewise m ty d fun _ => .ok (s.bcast h ty a, 0))

/-- `VSLIDE` (R196). -/
def execVslide (h : Head) (m : Fin 8) (ty : Ty) (d : Dst) (a b : VSrc) (c : Src) (s : State) : Out :=
  issue (.vslide h m ty d a b c) s fun s =>
    let k := (s.val h .i64 c).toNat
    s.permute h m ty d a b noIdx fun i _ => if i + k < 2 * ty.lanes then some (i + k) else none

/-- `VZIP` (R196). -/
def execVzip (h : Head) (m : Fin 8) (ty : Ty) (hi : Bool) (d : Dst) (a b : VSrc) (s : State) : Out :=
  issue (.vzip h m ty hi d a b) s fun s =>
    s.permute h m ty d a b noIdx fun i _ =>
      some (bit hi * (ty.lanes / 2) + i / 2 + i % 2 * ty.lanes)

/-- `VUNZIP` (R196). -/
def execVunzip (h : Head) (m : Fin 8) (ty : Ty) (hi : Bool) (d : Dst) (a b : VSrc) (s : State) : Out :=
  issue (.vunzip h m ty hi d a b) s fun s =>
    s.permute h m ty d a b noIdx fun i _ => some (2 * i + bit hi)

/-- R188: a comparison of two lanes, with its flags. -/
def cmpF (c : Cond) (ty : Ty) (x y : Nat) : Bool × Flags :=
  if ty.isInt then (Cond.holds c (ty.int x) (ty.int y), 0)
  else
    let a := ty.decode x
    let b := ty.decode y
    let quiet := match c with
      | .eq | .ne => true
      | _ => false
    if a.isNaN || b.isNaN then (c == .ne, Flags.nv.on (!quiet || a.signals || b.signals))
    else (Cond.holds c (Fl.cmp a b) 0, 0)

/-- Mask bits from a list, bit 0 first. -/
def ofBits (l : List Bool) : MaskW := .ofNat 256 (l.foldr (fun x r => bit x + 2 * r) 0)

/-- A mask whose first bits are those of a list and whose others are kept. -/
def maskOver (old : MaskW) (l : List Bool) : MaskW :=
  ofBits ((List.range 256).map fun i => l.getD i (old.getLsbD i))

/-- `VCMP` (R188). -/
def execVcmp (h : Head) (m : Fin 8) (c : Cond) (ty : Ty) (d : MDst) (a b : VSrc) (s : State) : Out :=
  issue (.vcmp h m c ty d a b) s fun s =>
    let old := s.mold d
    .of s (do
      let (l, f) ← mapLanes (s.act m ty.width) (fun i => bit (old.getLsbD i)) (fun i => do
        let (x, f) ← s.vlane h ty a i
        let (y, g) ← s.vlane h ty b i
        let (r, k) := cmpF c ty x y
        .ok (bit r, f ||| g ||| k)) (List.range ty.lanes)
      .ok ((s.mresult d (maskOver old (l.map (· == 1)))).addFlags f))

/-- `VMSK.AND` (R189). -/
def execVmskAnd (h : Head) (d : MDst) (a b : MSrc) (s : State) : Out :=
  issue (.vmskAnd h d a b) s fun s => .done (s.mresult d (s.msrc a &&& s.msrc b))

/-- `VMSK.OR` (R189). -/
def execVmskOr (h : Head) (d : MDst) (a b : MSrc) (s : State) : Out :=
  issue (.vmskOr h d a b) s fun s => .done (s.mresult d (s.msrc a ||| s.msrc b))

/-- `VMSK.XOR` (R189). -/
def execVmskXor (h : Head) (d : MDst) (a b : MSrc) (s : State) : Out :=
  issue (.vmskXor h d a b) s fun s => .done (s.mresult d (s.msrc a ^^^ s.msrc b))

/-- `VMSK.ANDN` (R189). -/
def execVmskAndn (h : Head) (d : MDst) (a b : MSrc) (s : State) : Out :=
  issue (.vmskAndn h d a b) s fun s => .done (s.mresult d (s.msrc a &&& ~~~s.msrc b))

/-- `VMSK.NOT` (R189). -/
def execVmskNot (h : Head) (d : MDst) (a : MSrc) (s : State) : Out :=
  issue (.vmskNot h d a) s fun s => .done (s.mresult d (~~~s.msrc a))

/-- `VSEL` (R190): every lane is written; an expanded source is looked up where it is taken. A lane's pattern
moves as it is and raises no flag, a signalling NaN's too: DESIGN CHOICE (log 67). -/
def execVsel (h : Head) (m : Fin 8) (ty : Ty) (d : Dst) (a b : VSrc) (s : State) : Out :=
  issue (.vsel h m ty d a b) s fun s =>
    .of s (s.someLanes (fun _ => true) ty d fun i =>
      s.vlane h ty (if laneOn (s.mask m) ty.width i then a else b) i)

/-- Set bits of a mask below a place. -/
def popMask (m : MaskW) (n : Nat) : Nat := ((List.range n).filter fun i => m.getLsbD i).length

/-- `VMPOP` (R191). -/
def execVmpop (h : Head) (ty : Ty) (d : Dst) (a : MSrc) (s : State) : Out :=
  issue (.vmpop h ty d a) s fun s => .done (s.result d (.ofNat 64 (popMask (s.msrc a) ty.lanes)))

/-- `VIOTA` (R191). -/
def execViota (h : Head) (m : Fin 8) (ty : Ty) (d : Dst) (a : MSrc) (s : State) : Out :=
  issue (.viota h m ty d a) s fun s =>
    .of s (s.lanewise m ty d fun i => .ok (popMask (s.msrc a) i % 2 ^ ty.width, 0))

end Sys2Proof.Machine
end

