-- ==== Sys2Proof/Machine/VecRed.lean ====
section
/-! DEFINITION. Vector reductions, scans and top-k (R197 to R201). -/

namespace Sys2Proof.Machine

/-- A value in a combining step: an integer, or a float value held as FP32 (R197). -/
inductive Acc2 where
  | int (x : Int)
  | fl (x : Fl)
  deriving DecidableEq, Repr

/-- A lane pattern as such a value. -/
def Acc2.of (ty : Ty) (p : Nat) : Acc2 := if ty.isInt then .int (ty.int p) else .fl (ty.decode p)

/-- R198: what an inactive lane contributes: the pseudocode's −0, which toward −∞ makes −0 of a sum with +0
(R60): DESIGN CHOICE (log 68). -/
def Acc2.none (ty : Ty) : Acc2 := if ty.isInt then .int 0 else .fl (.fin true 0 0)

/-- R198 `Add`. -/
def Acc2.add (mode : BitVec 2) : Acc2 → Acc2 → Acc2 × Flags
  | .int x, .int y => (.int (x + y), 0)
  | .fl x, .fl y =>
    let (r, f) := Fl.add mode x y
    let (z, g) := Ty.f32.rndFl mode r
    (.fl (Ty.f32.decode z), f ||| g)
  | a, _ => (a, 0)

/-- R198 "as TY". -/
def Acc2.out (ty : Ty) (mode : BitVec 2) : Acc2 → Nat × Flags
  | .int x => (ty.wrap x, 0)
  | .fl x => ty.rndFl mode x

/-- One level of the tree. -/
def treeLevel (mode : BitVec 2) : List Acc2 → List Acc2 × Flags
  | x :: y :: t =>
    let (z, f) := Acc2.add mode x y
    let (r, g) := treeLevel mode t
    (z :: r, f ||| g)
  | l => (l, 0)

/-- R198: the tree of a power-of-two number of lanes; eight levels reach 256. -/
def tree (mode : BitVec 2) : Nat → List Acc2 → List Acc2 × Flags
  | 0, l => (l, 0)
  | n + 1, l =>
    let (r, f) := treeLevel mode l
    let (q, g) := tree mode n r
    (q, f ||| g)

/-- The active lanes of A, none where inactive, and lane 0 of B, looked up lane by lane. -/
def State.redSrc (s : State) (h : Head) (m : Fin 8) (ty : Ty) (a b : VSrc) :
    T (List (Option Nat) × Nat × Flags) := do
  let on := s.act m ty.width
  let get (i : Nat) : T (Option Nat × Flags) := do
    if on i then let (x, f) ← s.vlane h ty a i; .ok (some x, f) else .ok (none, 0)
  let (x0, f) ← get 0
  let (y, g) ← s.vlane h ty b 0
  let l ← (List.range (ty.lanes - 1)).mapM fun i => get (i + 1)
  .ok (x0 :: l.map (·.1), y, l.foldl (fun r p => r ||| p.2) (f ||| g))

/-- Lane 0 of the result, zeros in the others (R198, R199). -/
def State.lane0 (s : State) (d : Dst) (x : Nat) (f : Flags) : State :=
  (s.vresult d (.ofNat 2048 x)).addFlags f

/-- `VREDSUM` (R198). -/
def execVredsum (h : Head) (m : Fin 8) (ty : Ty) (d : Dst) (a b : VSrc) (s : State) : Out :=
  issue (.vredsum h m ty d a b) s fun s =>
    .of s (do
      let (l, y, f) ← s.redSrc h m ty a b
      let r := s.str.rnd
      let (v, g) := tree r 8 (l.map fun x => (x.map (Acc2.of ty)).getD (.none ty))
      let (t, k) := Acc2.add r (v.headD (.none ty)) (.of ty y)
      let (z, e) := t.out ty r
      .ok (s.lane0 d z (f ||| g ||| k ||| e)))

/-- R199: the largest or smallest of some values of a type, with its flags. -/
def extreme (ty : Ty) (greater : Bool) (y : Nat) (l : List Nat) : Nat × Flags :=
  if ty.isInt then
    (l.foldl (fun r x => if (ty.int r < ty.int x) == greater then x else r) y, 0)
  else
    let v := (y :: l).map ty.decode
    let f : Flags := v.foldl (fun r x => r ||| x.nv) 0
    if v.any (·.isNaN) then (ty.nanPat, f)
    else ((ty.rndFl 0 (v.tail.foldl (fun r x => (Fl.pick greater r x).1) (ty.decode y))).1, f)

/-- `VREDMAX` (R199). -/
def execVredmax (h : Head) (m : Fin 8) (ty : Ty) (d : Dst) (a b : VSrc) (s : State) : Out :=
  issue (.vredmax h m ty d a b) s fun s =>
    .of s (do
      let (l, y, f) ← s.redSrc h m ty a b
      let (z, g) := extreme ty true y (l.filterMap id)
      .ok (s.lane0 d z (f ||| g)))

/-- `VREDMIN` (R199). -/
def execVredmin (h : Head) (m : Fin 8) (ty : Ty) (d : Dst) (a b : VSrc) (s : State) : Out :=
  issue (.vredmin h m ty d a b) s fun s =>
    .of s (do
      let (l, y, f) ← s.redSrc h m ty a b
      let (z, g) := extreme ty false y (l.filterMap id)
      .ok (s.lane0 d z (f ||| g)))

/-- R200: the running sums; a lane that is not active keeps its old pattern. -/
def scan (ty : Ty) (mode : BitVec 2) (old : Nat → Nat) : Nat → Acc2 → List (Option Nat) →
    List Nat × Flags
  | _, _, [] => ([], 0)
  | i, t, none :: l =>
    let (r, g) := scan ty mode old (i + 1) t l
    (old i :: r, g)
  | i, t, some x :: l =>
    let (t, f) := Acc2.add mode t (.of ty x)
    let (z, e) := t.out ty mode
    let (r, g) := scan ty mode old (i + 1) t l
    (z :: r, f ||| e ||| g)

/-- `VSCAN` (R200). -/
def execVscan (h : Head) (m : Fin 8) (ty : Ty) (d : Dst) (a b : VSrc) (s : State) : Out :=
  issue (.vscan h m ty d a b) s fun s =>
    .of s (do
      let (l, y, f) ← s.redSrc h m ty a b
      let old := s.vold d
      let (r, g) := scan ty s.str.rnd (fun i => lane old i ty.width) 0 (.of ty y) l
      .ok ((s.vresult d (ofLanes ty.width r)).addFlags (f ||| g)))

/-- R201: a key as an integer of the same order; every NaN lies below −∞. -/
def topKey (ty : Ty) (p : Nat) : Int :=
  if ty.isInt then ty.int p
  else if (ty.decode p).isNaN then -2 ^ ty.width
  else if p / 2 ^ (ty.width - 1) = 1 then -(p % 2 ^ (ty.width - 1) : Nat) else p

/-- R201: `(lane, key)` before another in the order of selection. -/
def topBefore (x y : Nat × Int) : Bool := y.2 < x.2 || (y.2 == x.2 && x.1 < y.1)

/-- R201: the lanes selected among the active ones. -/
def topSet (k : Nat) (l : List (Nat × Int)) : List Nat :=
  (l.filter fun x => (l.filter fun y => topBefore y x).length < k).map (·.1)

/-- `VTOPK` (R201). It sets no flag of its own; those of an operand's expansion (R183) are ORed into `cr.OVF`:
DESIGN CHOICE (log 67). -/
def execVtopk (h : Head) (m : Fin 8) (ty : Ty) (d : MDst) (a : VSrc) (b : Src) (s : State) : Out :=
  issue (.vtopk h m ty d a b) s fun s =>
    let k := (s.val h .i64 b).toNat
    .of s (do
      let l ← ((List.range ty.lanes).filter (s.act m ty.width)).mapM fun i => do
        let (x, f) ← s.vlane h ty a i
        .ok ((i, topKey ty x), f)
      let set := topSet k (l.map (·.1))
      let r := maskOver (s.mold d) ((List.range ty.lanes).map fun i => set.contains i)
      .ok ((s.mresult d r).addFlags (l.foldl (fun r p => r ||| p.2) 0)))

end Sys2Proof.Machine
end

