-- ==== Sys2Proof/Machine/Vector.lean ====
section
/-! DEFINITION. Vector integer (R185) and float arithmetic (R186, R187), lane by lane. -/

namespace Sys2Proof.Machine

/-- R185: an integer instruction of two sources with result r per lane. Of a lane's unusable entries the first,
A before B before C, names the `CODEBOOK` exception (DESIGN CHOICE, log 28). -/
def vint2 (h : Head) (m : Fin 8) (ty : Ty) (d : Dst) (a b : VSrc) (r : Int → Int → Nat × Flags)
    (s : State) : Res :=
  .of s (s.lanewise m ty d fun i => do
    let (x, f) ← s.vlane h ty a i
    let (y, g) ← s.vlane h ty b i
    let (z, k) := r (ty.int x) (ty.int y)
    .ok (z, f ||| g ||| k))

/-- R185: an integer instruction of one source. -/
def vint1 (h : Head) (m : Fin 8) (ty : Ty) (d : Dst) (a : VSrc) (r : Int → Nat × Flags)
    (s : State) : Res :=
  .of s (s.lanewise m ty d fun i => do
    let (x, f) ← s.vlane h ty a i
    let (z, k) := r (ty.int x)
    .ok (z, f ||| k))

/-- R185 `VSHR`: copies of the top bit enter for I types, zeros for N types. -/
def vshrF (ty : Ty) (x y : Int) : Int := x / 2 ^ shiftBy ty y

/-- R185 `VABS`. -/
def vabsF (ty : Ty) (x : Int) : Nat × Flags := ty.satInt x.natAbs

/-- R186: a float instruction of one source whose result the type computes. -/
def vflt1 (h : Head) (m : Fin 8) (ty : Ty) (d : Dst) (a : VSrc) (r : BitVec 2 → Fl → Nat × Flags)
    (s : State) : Res :=
  .of s (s.lanewise m ty d fun i => do
    let (x, f) ← s.vlane h ty a i
    let (z, k) := r s.str.rnd (ty.decode x)
    .ok (z, f ||| k))

/-- R186: a float instruction of two sources. -/
def vflt2 (h : Head) (m : Fin 8) (ty : Ty) (d : Dst) (a b : VSrc)
    (r : BitVec 2 → Fl → Fl → Nat × Flags) (s : State) : Res :=
  .of s (s.lanewise m ty d fun i => do
    let (x, f) ← s.vlane h ty a i
    let (y, g) ← s.vlane h ty b i
    let (z, k) := r s.str.rnd (ty.decode x) (ty.decode y)
    .ok (z, f ||| g ||| k))

/-- R180 `Rnd` of an exact result that has flags of its own. -/
def rndOf (ty : Ty) (mode : BitVec 2) (r : Fl × Flags) : Nat × Flags :=
  let (z, k) := ty.rndFl mode r.1
  (z, k ||| r.2)

/-- R187: a change of sign only; a NaN becomes canonical. -/
def signOnly (ty : Ty) (f : Bool → Bool) (x : Fl) : Nat × Flags :=
  match x with
  | .nan g => (ty.nanPat, Flags.nv.on g)
  | .inf n => (ty.signed_ (f n) ty.infPat, 0)
  | .fin n k e => ty.rnd 0 (f n) k e false

/-- `VADD`: a + b (R185). -/
def execVadd (h : Head) (m : Fin 8) (ty : Ty) (d : Dst) (a b : VSrc) (s : State) : Out :=
  issue (.vadd h m ty d a b) s (vint2 h m ty d a b (fun x y => (ty.wrap (x + y), 0)))

/-- `VSUB`: a − b (R185). -/
def execVsub (h : Head) (m : Fin 8) (ty : Ty) (d : Dst) (a b : VSrc) (s : State) : Out :=
  issue (.vsub h m ty d a b) s (vint2 h m ty d a b (fun x y => (ty.wrap (x - y), 0)))

/-- `VMUL`: a × b (R185). -/
def execVmul (h : Head) (m : Fin 8) (ty : Ty) (d : Dst) (a b : VSrc) (s : State) : Out :=
  issue (.vmul h m ty d a b) s (vint2 h m ty d a b (fun x y => (ty.wrap (x * y), 0)))

/-- `VMULH`: floor(a × b / 2^w) (R185). -/
def execVmulh (h : Head) (m : Fin 8) (ty : Ty) (d : Dst) (a b : VSrc) (s : State) : Out :=
  issue (.vmulh h m ty d a b) s (vint2 h m ty d a b (fun x y => (ty.wrap (x * y / 2 ^ ty.width), 0)))

/-- `VADDS`: Sat(a + b) (R185). -/
def execVadds (h : Head) (m : Fin 8) (ty : Ty) (d : Dst) (a b : VSrc) (s : State) : Out :=
  issue (.vadds h m ty d a b) s (vint2 h m ty d a b (fun x y => ty.satInt (x + y)))

/-- `VSUBS`: Sat(a − b) (R185). -/
def execVsubs (h : Head) (m : Fin 8) (ty : Ty) (d : Dst) (a b : VSrc) (s : State) : Out :=
  issue (.vsubs h m ty d a b) s (vint2 h m ty d a b (fun x y => ty.satInt (x - y)))

/-- `VMIN`: the smaller (R185). -/
def execVmin (h : Head) (m : Fin 8) (ty : Ty) (d : Dst) (a b : VSrc) (s : State) : Out :=
  issue (.vmin h m ty d a b) s (vint2 h m ty d a b (fun x y => (ty.wrap (min x y), 0)))

/-- `VMAX`: the larger (R185). -/
def execVmax (h : Head) (m : Fin 8) (ty : Ty) (d : Dst) (a b : VSrc) (s : State) : Out :=
  issue (.vmax h m ty d a b) s (vint2 h m ty d a b (fun x y => (ty.wrap (max x y), 0)))

/-- `VAND`: bitwise (R185). -/
def execVand (h : Head) (m : Fin 8) (ty : Ty) (d : Dst) (a b : VSrc) (s : State) : Out :=
  issue (.vand h m ty d a b) s (vint2 h m ty d a b (fun x y => (ty.wrap (bitwise (· &&& ·) x y), 0)))

/-- `VOR`: bitwise (R185). -/
def execVor (h : Head) (m : Fin 8) (ty : Ty) (d : Dst) (a b : VSrc) (s : State) : Out :=
  issue (.vor h m ty d a b) s (vint2 h m ty d a b (fun x y => (ty.wrap (bitwise (· ||| ·) x y), 0)))

/-- `VXOR`: bitwise (R185). -/
def execVxor (h : Head) (m : Fin 8) (ty : Ty) (d : Dst) (a b : VSrc) (s : State) : Out :=
  issue (.vxor h m ty d a b) s (vint2 h m ty d a b (fun x y => (ty.wrap (bitwise (· ^^^ ·) x y), 0)))

/-- `VSHL`: a × 2^(b mod w) (R185). -/
def execVshl (h : Head) (m : Fin 8) (ty : Ty) (d : Dst) (a b : VSrc) (s : State) : Out :=
  issue (.vshl h m ty d a b) s (vint2 h m ty d a b (fun x y => (ty.wrap (x * 2 ^ shiftBy ty y), 0)))

/-- `VSHR`: shifted right (R185). -/
def execVshr (h : Head) (m : Fin 8) (ty : Ty) (d : Dst) (a b : VSrc) (s : State) : Out :=
  issue (.vshr h m ty d a b) s (vint2 h m ty d a b (fun x y => (ty.wrap (vshrF ty x y), 0)))

/-- `VMAD`: a × b + c (R185). -/
def execVmad (h : Head) (m : Fin 8) (ty : Ty) (d : Dst) (a b c : VSrc) (s : State) : Out :=
  issue (.vmad h m ty d a b c) s fun s =>
    .of s (s.lanewise m ty d fun i => do
      let (x, f) ← s.vlane h ty a i
      let (y, g) ← s.vlane h ty b i
      let (z, k) ← s.vlane h ty c i
      .ok (ty.wrap (ty.int x * ty.int y + ty.int z), f ||| g ||| k))

/-- `VABS` (R185). -/
def execVabs (h : Head) (m : Fin 8) (ty : Ty) (d : Dst) (a : VSrc) (s : State) : Out :=
  issue (.vabs h m ty d a) s (vint1 h m ty d a (vabsF ty))

/-- `VMOV` (R185). -/
def execVmov (h : Head) (m : Fin 8) (ty : Ty) (d : Dst) (a : VSrc) (s : State) : Out :=
  issue (.vmov h m ty d a) s (vint1 h m ty d a (fun x => (ty.wrap x, 0)))

/-- `VFADD`: a + b (R186, R187). -/
def execVfadd (h : Head) (m : Fin 8) (ty : Ty) (d : Dst) (a b : VSrc) (s : State) : Out :=
  issue (.vfadd h m ty d a b) s (vflt2 h m ty d a b (fun r x y => rndOf ty r (Fl.add r x y)))

/-- `VFSUB`: a − b (R186, R187). -/
def execVfsub (h : Head) (m : Fin 8) (ty : Ty) (d : Dst) (a b : VSrc) (s : State) : Out :=
  issue (.vfsub h m ty d a b) s (vflt2 h m ty d a b (fun r x y => rndOf ty r (Fl.add r x y.neg)))

/-- `VFMUL`: a × b (R186, R187). -/
def execVfmul (h : Head) (m : Fin 8) (ty : Ty) (d : Dst) (a b : VSrc) (s : State) : Out :=
  issue (.vfmul h m ty d a b) s (vflt2 h m ty d a b (fun r x y => rndOf ty r (Fl.mul x y)))

/-- `VFDIV`: a / b (R186, R187). -/
def execVfdiv (h : Head) (m : Fin 8) (ty : Ty) (d : Dst) (a b : VSrc) (s : State) : Out :=
  issue (.vfdiv h m ty d a b) s (vflt2 h m ty d a b (fun r x y => ty.fdiv r x y))

/-- `VFMIN`: the smaller (R186, R187). -/
def execVfmin (h : Head) (m : Fin 8) (ty : Ty) (d : Dst) (a b : VSrc) (s : State) : Out :=
  issue (.vfmin h m ty d a b) s (vflt2 h m ty d a b (fun r x y => rndOf ty r (Fl.pick false x y)))

/-- `VFMAX`: the larger (R186, R187). -/
def execVfmax (h : Head) (m : Fin 8) (ty : Ty) (d : Dst) (a b : VSrc) (s : State) : Out :=
  issue (.vfmax h m ty d a b) s (vflt2 h m ty d a b (fun r x y => rndOf ty r (Fl.pick true x y)))

/-- `VFMA`: a × b + c rounded once (R186, R187). -/
def execVfma (h : Head) (m : Fin 8) (ty : Ty) (d : Dst) (a b c : VSrc) (s : State) : Out :=
  issue (.vfma h m ty d a b c) s fun s =>
    .of s (s.lanewise m ty d fun i => do
      let (x, f) ← s.vlane h ty a i
      let (y, g) ← s.vlane h ty b i
      let (z, k) ← s.vlane h ty c i
      let (r, e) := rndOf ty s.str.rnd (Fl.fma s.str.rnd (ty.decode x) (ty.decode y) (ty.decode z))
      .ok (r, e ||| f ||| g ||| k))

/-- `VFSQRT`: the square root (R186, R187). -/
def execVfsqrt (h : Head) (m : Fin 8) (ty : Ty) (d : Dst) (a : VSrc) (s : State) : Out :=
  issue (.vfsqrt h m ty d a) s (vflt1 h m ty d a (fun r x => ty.fsqrt r x))

/-- `VFABS`: the magnitude (R186, R187). -/
def execVfabs (h : Head) (m : Fin 8) (ty : Ty) (d : Dst) (a : VSrc) (s : State) : Out :=
  issue (.vfabs h m ty d a) s (vflt1 h m ty d a (fun _ x => signOnly ty (fun _ => false) x))

/-- `VFNEG`: −a (R186, R187). -/
def execVfneg (h : Head) (m : Fin 8) (ty : Ty) (d : Dst) (a : VSrc) (s : State) : Out :=
  issue (.vfneg h m ty d a) s (vflt1 h m ty d a (fun _ x => signOnly ty (!·) x))

/-- `VFRCP`: 1 / a (R186, R187). -/
def execVfrcp (h : Head) (m : Fin 8) (ty : Ty) (d : Dst) (a : VSrc) (s : State) : Out :=
  issue (.vfrcp h m ty d a) s (vflt1 h m ty d a (fun r x => ty.fdiv r (.fin false 1 0) x))

/-- `VFEXP2`: 2^a (R186, R187). -/
def execVfexp2 (h : Head) (m : Fin 8) (ty : Ty) (d : Dst) (a : VSrc) (s : State) : Out :=
  issue (.vfexp2 h m ty d a) s (vflt1 h m ty d a (fun r x => ty.fexp2 r x))

end Sys2Proof.Machine
end

