-- ==== Sys2Proof/Machine/Dispatch.lean ====
section
/-! DEFINITION. Dispatch: one arm per constructor of `Instr`, each a direct call of its meaning. -/

namespace Sys2Proof.Machine

/-- The meaning of an instruction or event. -/
def exec (i : Instr) (s : State) : Host.Outcome State Fault Refusal :=
  match i with
  | .nop h => Sys2Proof.Machine.execNop h s
  | .add h ty d a b => Sys2Proof.Machine.execAdd h ty d a b s
  | .sub h ty d a b => Sys2Proof.Machine.execSub h ty d a b s
  | .mul h ty d a b => Sys2Proof.Machine.execMul h ty d a b s
  | .mulh h ty d a b => Sys2Proof.Machine.execMulh h ty d a b s
  | .div h ty d a b => Sys2Proof.Machine.execDiv h ty d a b s
  | .rem h ty d a b => Sys2Proof.Machine.execRem h ty d a b s
  | .and h ty d a b => Sys2Proof.Machine.execAnd h ty d a b s
  | .or h ty d a b => Sys2Proof.Machine.execOr h ty d a b s
  | .xor h ty d a b => Sys2Proof.Machine.execXor h ty d a b s
  | .andn h ty d a b => Sys2Proof.Machine.execAndn h ty d a b s
  | .shl h ty d a b => Sys2Proof.Machine.execShl h ty d a b s
  | .shr h ty d a b => Sys2Proof.Machine.execShr h ty d a b s
  | .sra h ty d a b => Sys2Proof.Machine.execSra h ty d a b s
  | .rot h ty d a b => Sys2Proof.Machine.execRot h ty d a b s
  | .mov h ty d a => Sys2Proof.Machine.execMov h ty d a s
  | .clz h ty d a => Sys2Proof.Machine.execClz h ty d a s
  | .popc h ty d a => Sys2Proof.Machine.execPopc h ty d a s
  | .ctz h ty d a => Sys2Proof.Machine.execCtz h ty d a s
  | .not h ty d a => Sys2Proof.Machine.execNot h ty d a s
  | .neg h ty d a => Sys2Proof.Machine.execNeg h ty d a s
  | .min h ty d a b => Sys2Proof.Machine.execMin h ty d a b s
  | .max h ty d a b => Sys2Proof.Machine.execMax h ty d a b s
  | .cmp h c ty d a b => Sys2Proof.Machine.execCmp h c ty d a b s
  | .sel h ty d a b c => Sys2Proof.Machine.execSel h ty d a b c s
  | .ext h ty d a b len1 => Sys2Proof.Machine.execExt h ty d a b len1 s
  | .ins h ty d a b len1 => Sys2Proof.Machine.execIns h ty d a b len1 s
  | .addx h sc ty d a b => Sys2Proof.Machine.execAddx h sc ty d a b s
  | .br h c hint uns a b t => Sys2Proof.Machine.execBr h c hint uns a b t s
  | .jmp h t => Sys2Proof.Machine.execJmp h t s
  | .jmpAbs h a => Sys2Proof.Machine.execJmpAbs h a s
  | .call h d t => Sys2Proof.Machine.execCall h d t s
  | .callAbs h d a => Sys2Proof.Machine.execCallAbs h d a s
  | .ret h a => Sys2Proof.Machine.execRet h a s
  | .loop h d a t => Sys2Proof.Machine.execLoop h d a t s
  | .ld h sc acq sx sz d a b => Sys2Proof.Machine.execLd h sc acq sx sz d a b s
  | .st h sc rel sz a b c => Sys2Proof.Machine.execSt h sc rel sz a b c s
  | .ldl h sx sz d a b => Sys2Proof.Machine.execLdl h sx sz d a b s
  | .stu h sz a b c => Sys2Proof.Machine.execStu h sz a b c s
  | .amoAdd h w64 sc d a b => Sys2Proof.Machine.execAmoAdd h w64 sc d a b s
  | .amoAnd h w64 sc d a b => Sys2Proof.Machine.execAmoAnd h w64 sc d a b s
  | .amoOr h w64 sc d a b => Sys2Proof.Machine.execAmoOr h w64 sc d a b s
  | .amoXor h w64 sc d a b => Sys2Proof.Machine.execAmoXor h w64 sc d a b s
  | .amoSmin h w64 sc d a b => Sys2Proof.Machine.execAmoSmin h w64 sc d a b s
  | .amoSmax h w64 sc d a b => Sys2Proof.Machine.execAmoSmax h w64 sc d a b s
  | .amoUmin h w64 sc d a b => Sys2Proof.Machine.execAmoUmin h w64 sc d a b s
  | .amoUmax h w64 sc d a b => Sys2Proof.Machine.execAmoUmax h w64 sc d a b s
  | .amoSwap h w64 sc d a b => Sys2Proof.Machine.execAmoSwap h w64 sc d a b s
  | .amoCas h w64 sc d a b c => Sys2Proof.Machine.execAmoCas h w64 sc d a b c s
  | .pref h a b => Sys2Proof.Machine.execPref h a b s
  | .csrd h d crn => Sys2Proof.Machine.execCsrd h d crn s
  | .cswr h d crn a => Sys2Proof.Machine.execCswr h d crn a s
  | .csset h d crn a => Sys2Proof.Machine.execCsset h d crn a s
  | .csclr h d crn a => Sys2Proof.Machine.execCsclr h d crn a s
  | .svc h code => Sys2Proof.Machine.execSvc h code s
  | .brk h code => Sys2Proof.Machine.execBrk h code s
  | .retf h => Sys2Proof.Machine.execRetf h s
  | .nudgearm h d a b => Sys2Proof.Machine.execNudgearm h d a b s
  | .nudgeret h => Sys2Proof.Machine.execNudgeret h s
  | .waiti h => Sys2Proof.Machine.execWaiti h s
  | .pause h a => Sys2Proof.Machine.execPause h a s
  | .pauseEnd core st => Sys2Proof.Machine.execPauseEnd core st s
  | .fence h sc => Sys2Proof.Machine.execFence h sc s
  | .fenceX h mask => Sys2Proof.Machine.execFenceX h mask s
  | .fenceXJoin core st => Sys2Proof.Machine.execFenceXJoin core st s
  | .tlbinv h => Sys2Proof.Machine.execTlbinv h s
  | .tlbinvA h a b => Sys2Proof.Machine.execTlbinvA h a b s
  | .grwr h a b c => Sys2Proof.Machine.execGrwr h a b c s
  | .grq h d a => Sys2Proof.Machine.execGrq h d a s
  | .remapset h a b c => Sys2Proof.Machine.execRemapset h a b c s
  | .semwait h n b => Sys2Proof.Machine.execSemwait h n b s
  | .sempost h n b => Sys2Proof.Machine.execSempost h n b s
  | .semset h d n b => Sys2Proof.Machine.execSemset h d n b s
  | .semrd h d n => Sys2Proof.Machine.execSemrd h d n s
  | .waitGrant core n => Sys2Proof.Machine.execWaitGrant core n s
  | .rdv h => Sys2Proof.Machine.execRdv h s
  | .spawn h d a => Sys2Proof.Machine.execSpawn h d a s
  | .tagset h d a => Sys2Proof.Machine.execTagset h d a s
  | .qdrop h q d a => Sys2Proof.Machine.execQdrop h q d a s
  | .wqrsv h d a => Sys2Proof.Machine.execWqrsv h d a s
  | .wqpush h d a b => Sys2Proof.Machine.execWqpush h d a b s
  | .wqcmt h d a b c => Sys2Proof.Machine.execWqcmt h d a b c s
  | .wqpop h nb d a b => Sys2Proof.Machine.execWqpop h nb d a b s
  | .wqstat h d a => Sys2Proof.Machine.execWqstat h d a s
  | .wqctlCreate h d a b => Sys2Proof.Machine.execWqctlCreate h d a b s
  | .wqctlRestart h d a b => Sys2Proof.Machine.execWqctlRestart h d a b s
  | .wqctlDestroy h d a b => Sys2Proof.Machine.execWqctlDestroy h d a b s
  | .wqctlRead h d a b => Sys2Proof.Machine.execWqctlRead h d a b s
  | .tbarm h ord nudge d a b c => Sys2Proof.Machine.execTbarm h ord nudge d a b c s
  | .tbwait h d a b => Sys2Proof.Machine.execTbwait h d a b s
  | .tbarrive h a b c => Sys2Proof.Machine.execTbarrive h a b c s
  | .nudgeDelivery core => Sys2Proof.Machine.execNudgeDelivery core s
  | .vadd h m ty d a b => Sys2Proof.Machine.execVadd h m ty d a b s
  | .vsub h m ty d a b => Sys2Proof.Machine.execVsub h m ty d a b s
  | .vmul h m ty d a b => Sys2Proof.Machine.execVmul h m ty d a b s
  | .vmulh h m ty d a b => Sys2Proof.Machine.execVmulh h m ty d a b s
  | .vmad h m ty d a b c => Sys2Proof.Machine.execVmad h m ty d a b c s
  | .vadds h m ty d a b => Sys2Proof.Machine.execVadds h m ty d a b s
  | .vsubs h m ty d a b => Sys2Proof.Machine.execVsubs h m ty d a b s
  | .vmin h m ty d a b => Sys2Proof.Machine.execVmin h m ty d a b s
  | .vmax h m ty d a b => Sys2Proof.Machine.execVmax h m ty d a b s
  | .vand h m ty d a b => Sys2Proof.Machine.execVand h m ty d a b s
  | .vor h m ty d a b => Sys2Proof.Machine.execVor h m ty d a b s
  | .vxor h m ty d a b => Sys2Proof.Machine.execVxor h m ty d a b s
  | .vshl h m ty d a b => Sys2Proof.Machine.execVshl h m ty d a b s
  | .vshr h m ty d a b => Sys2Proof.Machine.execVshr h m ty d a b s
  | .vabs h m ty d a => Sys2Proof.Machine.execVabs h m ty d a s
  | .vmov h m ty d a => Sys2Proof.Machine.execVmov h m ty d a s
  | .vfadd h m ty d a b => Sys2Proof.Machine.execVfadd h m ty d a b s
  | .vfsub h m ty d a b => Sys2Proof.Machine.execVfsub h m ty d a b s
  | .vfmul h m ty d a b => Sys2Proof.Machine.execVfmul h m ty d a b s
  | .vfma h m ty d a b c => Sys2Proof.Machine.execVfma h m ty d a b c s
  | .vfdiv h m ty d a b => Sys2Proof.Machine.execVfdiv h m ty d a b s
  | .vfsqrt h m ty d a => Sys2Proof.Machine.execVfsqrt h m ty d a s
  | .vfmin h m ty d a b => Sys2Proof.Machine.execVfmin h m ty d a b s
  | .vfmax h m ty d a b => Sys2Proof.Machine.execVfmax h m ty d a b s
  | .vfabs h m ty d a => Sys2Proof.Machine.execVfabs h m ty d a s
  | .vfneg h m ty d a => Sys2Proof.Machine.execVfneg h m ty d a s
  | .vfrcp h m ty d a => Sys2Proof.Machine.execVfrcp h m ty d a s
  | .vfexp2 h m ty d a => Sys2Proof.Machine.execVfexp2 h m ty d a s
  | .vcvt h m dty sty pol part d a => Sys2Proof.Machine.execVcvt h m dty sty pol part d a s
  | .vcbx h m ty bank kind part d a => Sys2Proof.Machine.execVcbx h m ty bank kind part d a s
  | .vpack h m ty d a b => Sys2Proof.Machine.execVpack h m ty d a b s
  | .vunpack h m ty hi d a => Sys2Proof.Machine.execVunpack h m ty hi d a s
  | .vldexp h m ty d a b => Sys2Proof.Machine.execVldexp h m ty d a b s
  | .vshuf h m ty d a b c => Sys2Proof.Machine.execVshuf h m ty d a b c s
  | .vbcast h m ty d a => Sys2Proof.Machine.execVbcast h m ty d a s
  | .vslide h m ty d a b c => Sys2Proof.Machine.execVslide h m ty d a b c s
  | .vzip h m ty hi d a b => Sys2Proof.Machine.execVzip h m ty hi d a b s
  | .vunzip h m ty hi d a b => Sys2Proof.Machine.execVunzip h m ty hi d a b s
  | .vredsum h m ty d a b => Sys2Proof.Machine.execVredsum h m ty d a b s
  | .vredmax h m ty d a b => Sys2Proof.Machine.execVredmax h m ty d a b s
  | .vredmin h m ty d a b => Sys2Proof.Machine.execVredmin h m ty d a b s
  | .vscan h m ty d a b => Sys2Proof.Machine.execVscan h m ty d a b s
  | .vtopk h m ty d a b => Sys2Proof.Machine.execVtopk h m ty d a b s
  | .vcmp h m c ty d a b => Sys2Proof.Machine.execVcmp h m c ty d a b s
  | .vmskAnd h d a b => Sys2Proof.Machine.execVmskAnd h d a b s
  | .vmskOr h d a b => Sys2Proof.Machine.execVmskOr h d a b s
  | .vmskXor h d a b => Sys2Proof.Machine.execVmskXor h d a b s
  | .vmskAndn h d a b => Sys2Proof.Machine.execVmskAndn h d a b s
  | .vmskNot h d a => Sys2Proof.Machine.execVmskNot h d a s
  | .vsel h m ty d a b => Sys2Proof.Machine.execVsel h m ty d a b s
  | .vmpop h ty d a => Sys2Proof.Machine.execVmpop h ty d a s
  | .viota h m ty d a => Sys2Proof.Machine.execViota h m ty d a s
  | .vld h m ty d a b => Sys2Proof.Machine.execVld h m ty d a b s
  | .vst h m ty a b c => Sys2Proof.Machine.execVst h m ty a b c s
  | .vlds h m ty d a b => Sys2Proof.Machine.execVlds h m ty d a b s
  | .vsts h m ty a b c => Sys2Proof.Machine.execVsts h m ty a b c s
  | .vgath h m ty sc d a b => Sys2Proof.Machine.execVgath h m ty sc d a b s
  | .vscat h m ty sc a b c => Sys2Proof.Machine.execVscat h m ty sc a b c s
  | .vldsh h m ty w8 j0 pol d a => Sys2Proof.Machine.execVldsh h m ty w8 j0 pol d a s
  | .vstsh h m ty selmask aux w8 j0 bank half a c => Sys2Proof.Machine.execVstsh h m ty selmask aux w8 j0 bank half a c s
  | .fld h f a b => Sys2Proof.Machine.execFld h f a b s
  | .fst h a b f => Sys2Proof.Machine.execFst h a b f s
  | .fset h fd f a => Sys2Proof.Machine.execFset h fd f a s
  | .fpatch h fd f a => Sys2Proof.Machine.execFpatch h fd f a s
  | .fpatchMem h fd f a b => Sys2Proof.Machine.execFpatchMem h fd f a b s
  | .fgo h f => Sys2Proof.Machine.execFgo h f s
  | .fgoUnf h f p => Sys2Proof.Machine.execFgoUnf h f p s
  | .fgoDec h f p => Sys2Proof.Machine.execFgoDec h f p s
  | .fgoCommandStart core st => Sys2Proof.Machine.execFgoCommandStart core st s
  | .fgoComplete core st => Sys2Proof.Machine.execFgoComplete core st s
  | .winset h w a b c => Sys2Proof.Machine.execWinset h w a b c s
  | .winq h d w sel => Sys2Proof.Machine.execWinq h d w sel s
  | .cpy h at_ f t => Sys2Proof.Machine.execCpy h at_ f t s
  | .cpyUnf h at_ f t p => Sys2Proof.Machine.execCpyUnf h at_ f t p s
  | .cpyDec h at_ f t p => Sys2Proof.Machine.execCpyDec h at_ f t p s
  | .cpyRed h at_ f t => Sys2Proof.Machine.execCpyRed h at_ f t s
  | .cpyOred h at_ f t p => Sys2Proof.Machine.execCpyOred h at_ f t p s
  | .cpyq h d a => Sys2Proof.Machine.execCpyq h d a s
  | .timedCopyRelease core => Sys2Proof.Machine.execTimedCopyRelease core s
  | .shuttleCommandStart core => Sys2Proof.Machine.execShuttleCommandStart core s
  | .orderedReduceApply core id => Sys2Proof.Machine.execOrderedReduceApply core id s
  | .copyComplete core id => Sys2Proof.Machine.execCopyComplete core id s
  | .storeWritePerformed core st idx => Sys2Proof.Machine.execStoreWritePerformed core st idx s
  | .ldlLockGrant core st => Sys2Proof.Machine.execLdlLockGrant core st s
  | .weave h sp reed pair f b acc raw => Sys2Proof.Machine.execWeave h sp reed pair f b acc raw s
  | .scacc h a b => Sys2Proof.Machine.execScacc h a b s
  | .lmodeWrap h => Sys2Proof.Machine.execLmodeWrap h s
  | .lmodeSat h => Sys2Proof.Machine.execLmodeSat h s
  | .lsync h => Sys2Proof.Machine.execLsync h s
  | .accclr h a b => Sys2Proof.Machine.execAccclr h a b s
  | .accld h a b c => Sys2Proof.Machine.execAccld h a b c s
  | .accst h a b c => Sys2Proof.Machine.execAccst h a b c s
  | .accaddRow h fp a b c => Sys2Proof.Machine.execAccaddRow h fp a b c s
  | .accaddCol h fp a b c => Sys2Proof.Machine.execAccaddCol h fp a b c s
  | .drain h ty pol clr a b c => Sys2Proof.Machine.execDrain h ty pol clr a b c s
  | .mdcopy h a b c => Sys2Proof.Machine.execMdcopy h a b c s
  | .cbld h bank a b => Sys2Proof.Machine.execCbld h bank a b s
  | .cbq h d bank => Sys2Proof.Machine.execCbq h d bank s
  | .reedld h t a b => Sys2Proof.Machine.execReedld h t a b s
  | .reedselOn h t => Sys2Proof.Machine.execReedselOn h t s
  | .reedselOff h => Sys2Proof.Machine.execReedselOff h s
  | .loomCommandStart core => Sys2Proof.Machine.execLoomCommandStart core s
  | .loomStep core => Sys2Proof.Machine.execLoomStep core s
  | .loomCommandComplete core => Sys2Proof.Machine.execLoomCommandComplete core s
  | .granaryReadResume core e => Sys2Proof.Machine.execGranaryReadResume core e s
  | .launchQueueRecord die q => Sys2Proof.Machine.execLaunchQueueRecord die q s
  | .instancePlace die node inst core => Sys2Proof.Machine.execInstancePlace die node inst core s
  | .instanceStart core keep => Sys2Proof.Machine.execInstanceStart core keep s
  | .instanceAging die node run => Sys2Proof.Machine.execInstanceAging die node run s
  | .iterationEnd core => Sys2Proof.Machine.execIterationEnd core s
  | .graphEndSample die q => Sys2Proof.Machine.execGraphEndSample die q s
  | .preemption die node inst core => Sys2Proof.Machine.execPreemption die node inst core s
  | .preemptingRetire core => Sys2Proof.Machine.execPreemptingRetire core s
  | .pcmdResume core => Sys2Proof.Machine.execPcmdResume core s
  | .pcmdAbort core => Sys2Proof.Machine.execPcmdAbort core s
  | .pcmdRerun core => Sys2Proof.Machine.execPcmdRerun core s
  | .pcmdSave core => Sys2Proof.Machine.execPcmdSave core s
  | .corePortWrite core off bytes v => Sys2Proof.Machine.execCorePortWrite core off bytes v s
  | .debugViewWrite core off bytes v => Sys2Proof.Machine.execDebugViewWrite core off bytes v s
  | .parserPacket die q => Sys2Proof.Machine.execParserPacket die q s
  | .parserSliceExpiry die => Sys2Proof.Machine.execParserSliceExpiry die s
  | .watchdogTimeout core => Sys2Proof.Machine.execWatchdogTimeout core s
  | .ringProducerStallTimeout core victim => Sys2Proof.Machine.execRingProducerStallTimeout core victim s
  | .reservationTimeout die q ticket => Sys2Proof.Machine.execReservationTimeout die q ticket s
  | .cmdPush hart => Sys2Proof.Machine.execCmdPush hart s
  | .cmdPop hart => Sys2Proof.Machine.execCmdPop hart s
  | .cmdStat hart => Sys2Proof.Machine.execCmdStat hart s
  | .cmdCreate hart => Sys2Proof.Machine.execCmdCreate hart s
  | .cmdRestart hart => Sys2Proof.Machine.execCmdRestart hart s
  | .cmdDestroy hart => Sys2Proof.Machine.execCmdDestroy hart s
  | .cmdRead hart => Sys2Proof.Machine.execCmdRead hart s
  | .hstatRead hart => Sys2Proof.Machine.execHstatRead hart s
  | .commandPageWrite hart off v => Sys2Proof.Machine.execCommandPageWrite hart off v s
  | .dispatchStop die inReeve => Sys2Proof.Machine.execDispatchStop die inReeve s
  | .journalReplay die => Sys2Proof.Machine.execJournalReplay die s
  | .reeveHeartbeatTimeout die => Sys2Proof.Machine.execReeveHeartbeatTimeout die s
  | .reeveReload die => Sys2Proof.Machine.execReeveReload die s
  | .supervisorReload plot => Sys2Proof.Machine.execSupervisorReload plot s
  | .draughtBudgetSet plot budget => Sys2Proof.Machine.execDraughtBudgetSet plot budget s
  | .plotReassign plot partition => Sys2Proof.Machine.execPlotReassign plot partition s
  | .mgmtSessionOpen o => Sys2Proof.Machine.execMgmtSessionOpen o s
  | .imageUpdate sess slot img => Sys2Proof.Machine.execImageUpdate sess slot img s
  | .powerReset sess op => Sys2Proof.Machine.execPowerReset sess op s
  | .telemetry sess => Sys2Proof.Machine.execTelemetry sess s
  | .console sess input => Sys2Proof.Machine.execConsole sess input s
  | .bringUp => Sys2Proof.Machine.execBringUp s
  | .thermalThrottle die temp budgets => Sys2Proof.Machine.execThermalThrottle die temp budgets s
  | .thermalShutdown temp => Sys2Proof.Machine.execThermalShutdown temp s
  | .coolantLoss => Sys2Proof.Machine.execCoolantLoss s
  | .linkFlit port crcOk load => Sys2Proof.Machine.execLinkFlit port crcOk load s
  | .linkDown port => Sys2Proof.Machine.execLinkDown port s
  | .moduleFence module => Sys2Proof.Machine.execModuleFence module s
  | .copyPoint core e back => Sys2Proof.Machine.execCopyPoint core e back s
  | .linkUp port peer => Sys2Proof.Machine.execLinkUp port peer s
  | .exportTableWrite n e => Sys2Proof.Machine.execExportTableWrite n e s
  | .hostHartAccess hart op => Sys2Proof.Machine.execHostHartAccess hart op s
  | .debugViewRead core off bytes => Sys2Proof.Machine.execDebugViewRead core off bytes s
  | .corePortRead core off bytes => Sys2Proof.Machine.execCorePortRead core off bytes s

end Sys2Proof.Machine
end

