-- ==== Sys2Proof/Machine/Riscv.lean ====
section
/-! DEFINITION. What the words of RV64GC and RV32IMC say (R1, R307, log 36): fields and immediates, the words that the
16-bit forms stand for, integer arithmetic, and the arithmetic of binary32 and binary64. -/

namespace Sys2Proof.Machine.Rv

/-- Bits [lo+n-1:lo] of a word. -/
abbrev f (w lo n : Nat) : Nat := bits w lo n

/-- A field of `n` bits with its sign, as 64 bits. -/
def sx (n x : Nat) : Word := (BitVec.ofNat n x).signExtend 64

/-- The immediates of the six formats. -/
def immI (w : Nat) : Word := sx 12 (f w 20 12)
@[inherit_doc immI] def immS (w : Nat) : Word := sx 12 (f w 25 7 * 32 + f w 7 5)
@[inherit_doc immI] def immB (w : Nat) : Word :=
  sx 13 (f w 31 1 * 4096 + f w 7 1 * 2048 + f w 25 6 * 32 + f w 8 4 * 2)
@[inherit_doc immI] def immU (w : Nat) : Word := sx 32 (f w 12 20 * 4096)
@[inherit_doc immI] def immJ (w : Nat) : Word :=
  sx 21 (f w 31 1 * 1048576 + f w 12 8 * 4096 + f w 20 1 * 2048 + f w 21 10 * 2)

/-- Words of the formats R, I, S, B and J, from their fields. -/
def mkR (f7 rs2 rs1 f3 rd op : Nat) : Nat := f7 * 2 ^ 25 + rs2 * 2 ^ 20 + rs1 * 2 ^ 15 + f3 * 2 ^ 12 + rd * 128 + op
@[inherit_doc mkR] def mkI (imm rs1 f3 rd op : Nat) : Nat := mkR 0 0 rs1 f3 rd op + f imm 0 12 * 2 ^ 20
@[inherit_doc mkR] def mkS (imm rs2 rs1 f3 op : Nat) : Nat := mkR (f imm 5 7) rs2 rs1 f3 (f imm 0 5) op
@[inherit_doc mkR] def mkB (imm rs2 rs1 f3 : Nat) : Nat :=
  mkR (f imm 12 1 * 64 + f imm 5 6) rs2 rs1 f3 (f imm 1 4 * 2 + f imm 11 1) 0x63
@[inherit_doc mkR] def mkJ (imm rd : Nat) : Nat :=
  (f imm 20 1 * 2048 + f imm 1 10 * 2 + f imm 11 1) * 2 ^ 20 + f imm 12 8 * 4096 + rd * 128 + 0x6F

/-- The low bits of a signed field of `n` bits, as those of a longer one. -/
def wide (n x : Nat) : Nat := (sx n x).toNat % 2 ^ 32

/-- The word that a 16-bit form of quadrant 0 stands for. -/
def quad0 (h : Nat) : Option Nat :=
  let rd := 8 + f h 2 3
  let rs := 8 + f h 7 3
  let w4 := f h 10 3 * 8 + f h 6 1 * 4 + f h 5 1 * 64
  let w8 := f h 10 3 * 8 + f h 5 2 * 64
  match f h 13 3 with
  | 0 =>
    let imm := f h 11 2 * 16 + f h 7 4 * 64 + f h 6 1 * 4 + f h 5 1 * 8
    if imm = 0 then none else some (mkI imm 2 0 rd 0x13)
  | 1 => some (mkI w8 rs 3 rd 0x07)
  | 2 => some (mkI w4 rs 2 rd 0x03)
  | 3 => some (mkI w8 rs 3 rd 0x03)
  | 5 => some (mkS w8 rd rs 3 0x27)
  | 6 => some (mkS w4 rd rs 2 0x23)
  | 7 => some (mkS w8 rd rs 3 0x23)
  | _ => none

/-- The same of quadrant 1. -/
def quad1 (h : Nat) : Option Nat :=
  let rd := f h 7 5
  let rs := 8 + f h 7 3
  let r2 := 8 + f h 2 3
  let u6 := f h 12 1 * 32 + f h 2 5
  let i6 := wide 6 u6
  let off := wide 9 (f h 12 1 * 256 + f h 10 2 * 8 + f h 5 2 * 64 + f h 3 2 * 2 + f h 2 1 * 32)
  match f h 13 3 with
  | 0 => some (mkI i6 rd 0 rd 0x13)
  | 1 => if rd = 0 then none else some (mkI i6 rd 0 rd 0x1B)
  | 2 => some (mkI i6 0 0 rd 0x13)
  | 3 =>
    if u6 = 0 then none
    else if rd = 2 then
      some (mkI (wide 10 (f h 12 1 * 512 + f h 6 1 * 16 + f h 3 2 * 128 + f h 5 1 * 64 + f h 2 1 * 32)) 2 0 2 0x13)
    else some (f i6 0 20 * 4096 + rd * 128 + 0x37)
  | 4 => match f h 10 2 with
    | 0 => some (mkI u6 rs 5 rs 0x13)
    | 1 => some (mkI (0x400 + u6) rs 5 rs 0x13)
    | 2 => some (mkI i6 rs 7 rs 0x13)
    | _ => match f h 12 1 * 4 + f h 5 2 with
      | 0 => some (mkR 0x20 r2 rs 0 rs 0x33)
      | 1 => some (mkR 0 r2 rs 4 rs 0x33)
      | 2 => some (mkR 0 r2 rs 6 rs 0x33)
      | 3 => some (mkR 0 r2 rs 7 rs 0x33)
      | 4 => some (mkR 0x20 r2 rs 0 rs 0x3B)
      | 5 => some (mkR 0 r2 rs 0 rs 0x3B)
      | _ => none
  | 5 => some (mkJ (wide 12 (f h 12 1 * 2048 + f h 11 1 * 16 + f h 9 2 * 256 + f h 8 1 * 1024 + f h 7 1 * 64 +
      f h 6 1 * 128 + f h 3 3 * 2 + f h 2 1 * 32)) 0)
  | 6 => some (mkB off 0 rs 0)
  | _ => some (mkB off 0 rs 1)

/-- The same of quadrant 2. -/
def quad2 (h : Nat) : Option Nat :=
  let rd := f h 7 5
  let rs := f h 2 5
  let u6 := f h 12 1 * 32 + rs
  let l8 := f h 12 1 * 32 + f h 5 2 * 8 + f h 2 3 * 64
  let s8 := f h 10 3 * 8 + f h 7 3 * 64
  match f h 13 3 with
  | 0 => some (mkI u6 rd 1 rd 0x13)
  | 1 => some (mkI l8 2 3 rd 0x07)
  | 2 => if rd = 0 then none else some (mkI (f h 12 1 * 32 + f h 4 3 * 4 + f h 2 2 * 64) 2 2 rd 0x03)
  | 3 => if rd = 0 then none else some (mkI l8 2 3 rd 0x03)
  | 4 =>
    if f h 12 1 = 0 then
      if rs ≠ 0 then some (mkR 0 rs 0 0 rd 0x33) else if rd = 0 then none else some (mkI 0 rd 0 0 0x67)
    else if rs ≠ 0 then some (mkR 0 rs rd 0 rd 0x33)
    else if rd = 0 then some 0x00100073 else some (mkI 0 rd 0 1 0x67)
  | 5 => some (mkS s8 rs 2 3 0x27)
  | 6 => some (mkS (f h 9 4 * 4 + f h 7 2 * 64) rs 2 2 0x23)
  | _ => some (mkS s8 rs 2 3 0x23)

/-- The 32-bit word that a 16-bit form stands for. -/
def expand (h : Nat) : Option Nat :=
  match h % 4 with
  | 0 => quad0 h
  | 1 => quad1 h
  | _ => quad2 h

/-- The same of RV32C without floating point: quadrant 1 has a jump that links in place of the addition of
words, shifts are by less than 32, and the forms on 64 bits and of floating point are no instructions. -/
def expand32 (h : Nat) : Option Nat :=
  let f3 := f h 13 3
  let high := f h 12 1 = 1
  match h % 4 with
  | 1 =>
    if f3 = 1 then (quad1 (h + 0x8000)).map (· + 128)
    else if f3 = 4 ∧ high ∧ f h 10 2 ≠ 2 then none else quad1 h
  | q => if f3 % 2 = 1 ∨ (q = 2 ∧ f3 = 0 ∧ high) then none else expand h

/-- The operations of OP and OP-IMM on values of one width; `alt` is bit 30. -/
def alu {n : Nat} (f3 : Nat) (alt : Bool) (a b : BitVec n) : BitVec n :=
  let k := b.toNat % n
  match f3 with
  | 0 => if alt then a - b else a + b
  | 1 => a <<< k
  | 2 => if a.toInt < b.toInt then 1 else 0
  | 3 => if a.toNat < b.toNat then 1 else 0
  | 4 => a ^^^ b
  | 5 => if alt then a.sshiftRight k else a >>> k
  | 6 => a ||| b
  | _ => a &&& b

/-- The operations of the extension M. -/
def mul {n : Nat} (f3 : Nat) (a b : BitVec n) : BitVec n :=
  match f3 with
  | 0 => a * b
  | 1 => .ofInt n (a.toInt * b.toInt / 2 ^ n)
  | 2 => .ofInt n (a.toInt * b.toNat / 2 ^ n)
  | 3 => .ofNat n (a.toNat * b.toNat / 2 ^ n)
  | 4 => if b = 0 then BitVec.allOnes n else .ofInt n (a.toInt.tdiv b.toInt)
  | 5 => if b = 0 then BitVec.allOnes n else .ofNat n (a.toNat / b.toNat)
  | 6 => if b = 0 then a else .ofInt n (a.toInt.tmod b.toInt)
  | _ => if b = 0 then a else .ofNat n (a.toNat % b.toNat)

/-- The result of a register operation of OP, where the word is one. -/
def opOf {n : Nat} (f7 f3 : Nat) (a b : BitVec n) : Option (BitVec n) :=
  if f7 = 1 then some (mul f3 a b)
  else if f7 = 0 then some (alu f3 false a b)
  else if f7 = 0x20 ∧ (f3 = 0 ∨ f3 = 5) then some (alu f3 true a b)
  else none

/-- The same on 64 bits: of OP and OP-32 (`w32`). -/
def op (w32 : Bool) (f7 f3 : Nat) (a b : Word) : Option Word :=
  if w32 then
    if if f7 = 1 then 1 ≤ f3 ∧ f3 ≤ 3 else f3 ≠ 0 ∧ f3 ≠ 1 ∧ f3 ≠ 5 then none
    else (opOf f7 f3 (a.setWidth 32 : BitVec 32) (b.setWidth 32)).map (·.signExtend 64)
  else opOf f7 f3 a b

/-- The same of OP-IMM and OP-IMM-32: a shift has a short amount. -/
def opImm (w32 : Bool) (w : Nat) (a : Word) : Option Word :=
  let f3 := f w 12 3
  let top := if w32 then f w 25 7 * 2 else f w 26 6 * 4
  if f3 = 1 ∨ f3 = 5 then
    if top = 0 then op w32 0 f3 a (.ofNat 64 (f w 20 6))
    else if top = 0x40 ∧ f3 = 5 then op w32 0x20 f3 a (.ofNat 64 (f w 20 6))
    else none
  else op w32 0 f3 a (immI w)

/-- OP-IMM on 32 bits. -/
def opImm32 (w : Nat) (a : BitVec 32) : Option (BitVec 32) :=
  let f3 := f w 12 3
  let f7 := f w 25 7
  if f3 = 1 ∨ f3 = 5 then
    if f7 = 0 ∨ (f7 = 0x20 ∧ f3 = 5) then opOf f7 f3 a (.ofNat 32 (f w 20 5)) else none
  else opOf 0 f3 a ((immI w).setWidth 32)

/-- Whether a branch is taken. -/
def taken {n : Nat} (f3 : Nat) (a b : BitVec n) : Option Bool :=
  match f3 with
  | 0 => some (a == b)
  | 1 => some (a != b)
  | 4 => some (decide (a.toInt < b.toInt))
  | 5 => some (decide (b.toInt ≤ a.toInt))
  | 6 => some (decide (a.toNat < b.toNat))
  | 7 => some (decide (b.toNat ≤ a.toNat))
  | _ => none

/-- The flags of `fflags`. -/
def nx : Nat := 1
@[inherit_doc nx] def uf : Nat := 2
@[inherit_doc nx] def ovf : Nat := 4
@[inherit_doc nx] def dz : Nat := 8
@[inherit_doc nx] def nv : Nat := 16

/-- `nv` where the flags of an exact operation have NV. -/
def nvOf (g : Flags) : Nat := if g &&& Flags.nv = 0 then 0 else nv

/-- Exponent and mantissa bits and bias of binary32, or of binary64. -/
def fmt (d : Bool) : Nat × Nat × Nat := if d then (11, 52, 1023) else (8, 23, 127)

/-- The pattern of an infinity without its sign, of the canonical NaN, and of a sign. -/
def infPat (d : Bool) : Nat := let (e, m, _) := fmt d; (2 ^ e - 1) * 2 ^ m
@[inherit_doc infPat] def nanPat (d : Bool) : Nat := let (_, m, _) := fmt d; infPat d + 2 ^ (m - 1)
@[inherit_doc infPat] def signBit (d neg : Bool) : Nat := if neg then (if d then 2 ^ 63 else 2 ^ 31) else 0

/-- Whether a rounding mode takes a magnitude up: to nearest even, to zero, down, up, to nearest away. -/
def up (rm : Nat) (neg odd : Bool) (half : Nat) (inexact : Bool) : Bool :=
  match rm with
  | 0 => half == 2 || (half == 1 && odd)
  | 1 => false
  | 2 => inexact && neg
  | 3 => inexact && !neg
  | _ => half != 0

/-- The modes of `Num` by which the sign of an exact zero follows. -/
def zeroMode (rm : Nat) : BitVec 2 := if rm = 2 then 3 else 0

/-- A magnitude rounded to a format, with its flags; it is tiny where it is so after rounding with an
exponent without bounds. -/
def round (d : Bool) (rm : Nat) (neg : Bool) (sig : Nat) (exp : Int) (sticky : Bool) : Nat × Nat :=
  let (_, m, b) := fmt d
  let sign := signBit d neg
  if sig = 0 then (sign, 0)
  else
    let qmin : Int := 1 - b - m
    let top := exp + (Nat.log2 sig : Int)
    let at_ (q : Int) : Nat × Bool :=
      let (k, half, inexact) := cut sig exp q sticky
      (k + (if up rm neg (k % 2 == 1) half inexact then 1 else 0), inexact)
    let q := max (top - m) qmin
    let (k, inexact) := at_ q
    let pat := k + (q - qmin).toNat * 2 ^ m
    if infPat d ≤ pat then
      let far := match rm with
        | 0 | 4 => true
        | 1 => false
        | 2 => neg
        | _ => !neg
      (sign + (if far then infPat d else infPat d - 1), ovf + nx)
    else
      let tiny := top < 1 - (b : Int) && !(top + 1 = 1 - (b : Int) && (at_ (top - m)).1 == 2 ^ (m + 1))
      (sign + pat, if inexact then nx + (if tiny then uf else 0) else 0)

/-- A value rounded to a format; a NaN is the canonical one. -/
def roundFl (d : Bool) (rm : Nat) : Fl → Nat × Nat
  | .fin n s e => round d rm n s e false
  | .inf n => (signBit d n + infPat d, 0)
  | .nan _ => (nanPat d, 0)

/-- An exact value with its flags, rounded. -/
def finish (d : Bool) (rm : Nat) (x : Fl × Flags) : Nat × Nat :=
  let (p, g) := roundFl d rm x.1
  (p, g ||| nvOf x.2)

/-- The pattern of a register that holds a binary32 boxed in ones, or a binary64. -/
def unbox (d : Bool) (x : Word) : Nat :=
  if d then x.toNat else if x.toNat / 2 ^ 32 = 2 ^ 32 - 1 then x.toNat % 2 ^ 32 else nanPat false

/-- The value of a pattern. -/
def value (d : Bool) (p : Nat) : Fl := if d then decode64 p else Ty.f32.decode p

/-- Division and square root. -/
def div (d : Bool) (rm : Nat) (a b : Fl) : Nat × Nat :=
  let neg := a.isNeg != b.isNeg
  match a, b with
  | .nan x, .nan y => (nanPat d, if x || y then nv else 0)
  | .nan x, _ | _, .nan x => (nanPat d, if x then nv else 0)
  | .inf _, .inf _ => (nanPat d, nv)
  | .inf _, _ => (signBit d neg + infPat d, 0)
  | _, .inf _ => (signBit d neg, 0)
  | .fin _ s e, .fin _ u g =>
    if u = 0 then if s = 0 then (nanPat d, nv) else (signBit d neg + infPat d, dz)
    else
      let (q, h, rest) := quot s u (e - g)
      round d rm neg q h rest
@[inherit_doc div] def sqrt (d : Bool) (rm : Nat) : Fl → Nat × Nat
  | .nan x => (nanPat d, if x then nv else 0)
  | .inf n => if n then (nanPat d, nv) else (infPat d, 0)
  | .fin n s e =>
    if s = 0 then (signBit d n, 0)
    else if n then (nanPat d, nv)
    else
      let k : Nat := 160 + (e % 2).toNat
      let r := isqrt (s * 2 ^ k)
      round d rm false r ((e - k) / 2) (r * r != s * 2 ^ k)

/-- The lesser or the greater of two patterns; a number where the other is a NaN. -/
def pick (d greater : Bool) (p q : Nat) : Nat × Nat :=
  let a := value d p
  let b := value d q
  let g := if a.signals || b.signals then nv else 0
  if a.isNaN then (if b.isNaN then nanPat d else q, g)
  else if b.isNaN then (p, g)
  else
    let c := Fl.cmp a b
    let less := c < 0 || (c == 0 && a.isNeg && !b.isNeg)
    (if less == greater then q else p, g)

/-- FLE, FLT and FEQ, by their f3. -/
def cmp (f3 : Nat) (a b : Fl) : Option (Nat × Nat) :=
  let c := Fl.cmp a b
  let ans (quiet p : Bool) : Option (Nat × Nat) :=
    if a.isNaN || b.isNaN then some (0, if !quiet || a.signals || b.signals then nv else 0)
    else some (if p then 1 else 0, 0)
  match f3 with
  | 0 => ans false (decide (c ≤ 0))
  | 1 => ans false (decide (c < 0))
  | 2 => ans true (c == 0)
  | _ => none

/-- FCLASS. -/
def cls (d : Bool) (p : Nat) : Nat :=
  let (e, m, _) := fmt d
  match value d p with
  | .nan s => if s then 2 ^ 8 else 2 ^ 9
  | .inf n => if n then 1 else 2 ^ 7
  | .fin n s _ =>
    let k := if s = 0 then 3 else if f p m e = 0 then 2 else 1
    if n then 2 ^ k else 2 ^ (7 - k)

/-- A value converted to an integer between two limits, as the bits of one of `n`; a NaN is above all. -/
def toInt (rm n : Nat) (signed : Bool) (a : Fl) : Word × Nat :=
  let lo : Int := if signed then -2 ^ (n - 1) else 0
  let hi : Int := if signed then 2 ^ (n - 1) - 1 else 2 ^ n - 1
  let as (x : Int) : Word := (BitVec.ofInt n x).signExtend 64
  match a with
  | .nan _ => (as hi, nv)
  | .inf neg => (as (if neg then lo else hi), nv)
  | .fin neg s e =>
    let (k, half, inexact) := cut s e 0 false
    let k := if up rm neg (k % 2 == 1) half inexact then k + 1 else k
    let x : Int := if neg then -k else k
    if x < lo then (as lo, nv) else if hi < x then (as hi, nv) else (as x, if inexact then nx else 0)

/-- The integer that a register holds for a conversion: of 32 or 64 bits, signed or not. -/
def ofReg (k : Nat) (x : Word) : Int :=
  match k with
  | 0 => (x.setWidth 32).toInt
  | 1 => (x.toNat % 2 ^ 32 : Nat)
  | 2 => x.toInt
  | _ => x.toNat

/-- An instruction of OP-FP or a multiply-add: the register it writes (`f` registers from 32 on), the bytes
of its value, the value and its flags. `x` and `g` are the registers, `rm` the rounding mode in force. -/
def float (w rm : Nat) (x g : Nat → Word) : Option (Nat × Nat × Word × Nat) :=
  let d := f w 25 2 == 1
  let n := if d then 8 else 4
  let rd := f w 7 5
  let r1 := f w 15 5
  let r2 := f w 20 5
  let f3 := f w 12 3
  let p := unbox d (g r1)
  let q := unbox d (g r2)
  let a := value d p
  let b := value d q
  let c := value d (unbox d (g (f w 27 5)))
  let toF (r : Nat × Nat) : Option (Nat × Nat × Word × Nat) := some (32 + rd, n, .ofNat 64 r.1, r.2)
  let rounded (r : Nat × Nat) : Option (Nat × Nat × Word × Nat) := if rm ≤ 4 then toF r else none
  let fma (a c : Fl) := rounded (finish d rm (Fl.fma (zeroMode rm) a b c))
  let top := if d then 63 else 31
  if 1 < f w 25 2 then none
  else match f w 0 7 with
    | 0x43 => fma a c
    | 0x47 => fma a c.neg
    | 0x4B => fma a.neg c
    | 0x4F => fma a.neg c.neg
    | _ => match f w 27 5 with
      | 0 => rounded (finish d rm (Fl.add (zeroMode rm) a b))
      | 1 => rounded (finish d rm (Fl.add (zeroMode rm) a b.neg))
      | 2 => rounded (finish d rm (Fl.mul a b))
      | 3 => rounded (div d rm a b)
      | 0xB => if r2 = 0 then rounded (sqrt d rm a) else none
      | 4 =>
        let low := p % 2 ^ top
        let s := p / 2 ^ top
        let t := q / 2 ^ top
        match f3 with
        | 0 => toF (t * 2 ^ top + low, 0)
        | 1 => toF ((1 - t) * 2 ^ top + low, 0)
        | 2 => toF ((s + t) % 2 * 2 ^ top + low, 0)
        | _ => none
      | 5 => if f3 ≤ 1 then toF (pick d (f3 == 1) p q) else none
      | 8 =>
        let v := value (!d) (unbox (!d) (g r1))
        if r2 = (if d then 0 else 1) then rounded (finish d rm (v, v.nv)) else none
      | 0x14 => (cmp f3 a b).map fun r => (rd, 8, .ofNat 64 r.1, r.2)
      | 0x18 =>
        if r2 ≤ 3 ∧ rm ≤ 4 then
          let r := toInt rm (if r2 < 2 then 32 else 64) (r2 % 2 == 0) a
          some (rd, 8, r.1, r.2)
        else none
      | 0x1A => if r2 ≤ 3 then rounded (roundFl d rm (Fl.ofInt (ofReg r2 (x r1)))) else none
      | 0x1C =>
        if r2 ≠ 0 then none
        else match f3 with
          | 0 => some (rd, 8, if d then g r1 else sx 32 (g r1).toNat, 0)
          | 1 => some (rd, 8, .ofNat 64 (cls d p), 0)
          | _ => none
      | 0x1E => if r2 = 0 ∧ f3 = 0 then toF ((x r1).toNat, 0) else none
      | _ => none

end Sys2Proof.Machine.Rv
end

