-- ==== Sys2Proof/Machine/HartRun.lean ====
section
/-! DEFINITION. The harts of the host die run RV64GC (R307, log 36): control registers, interrupts, fetching
and the instructions. -/

namespace Sys2Proof.Machine

/-- The register of a hart that a control-register number shows, the lowest bit shown, and the bits that may be
read and written; none where there is no such register. -/
def HartCpu.csrView (c : HartCpu) (n : Nat) : Option (Nat × Nat × Word × Word) :=
  let plain (mask : Word) : Option (Nat × Nat × Word × Word) := some (n, 0, BitVec.allOnes 64, mask)
  let deleg := c.csr.get 0 0x303
  match n with
  | 0x001 => some (3, 0, 0x1F, 0x1F)
  | 0x002 => some (3, 5, 0xE0, 0xE0)
  | 0x003 => plain 0xFF
  | 0x100 => some (0x300, 0, 0x80000003000DE762, 0xC6122)
  | 0x104 => some (0x304, 0, deleg, deleg)
  | 0x144 => some (0x344, 0, deleg, deleg &&& 2)
  | 0x105 | 0x305 => plain (~~~2)
  | 0x106 | 0x306 => plain 7
  | 0x10A | 0x30A => plain 1
  | 0x140 | 0x142 | 0x143 | 0x180 | 0x340 | 0x342 | 0x343 => plain (BitVec.allOnes 64)
  | 0x141 | 0x341 => plain (~~~1)
  | 0x300 => plain 0x7E79AA
  | 0x302 => plain 0xB3FF
  | 0x303 | 0x344 => plain 0x222
  | 0x304 => plain 0xAAA
  | 0x301 | 0x320 => plain 0
  | _ =>
    if (0x323 ≤ n ∧ n < 0x340) ∨ (0x3A0 ≤ n ∧ n < 0x3B0 ∧ n % 2 = 0) ∨ (0x3B0 ≤ n ∧ n < 0x3F0) ∨
        (0xB00 ≤ n ∧ n < 0xB20 ∧ n ≠ 0xB01) ∨ (0xC00 ≤ n ∧ n < 0xC20) ∨ (0xF11 ≤ n ∧ n ≤ 0xF15)
    then plain 0 else none

/-- What a control register holds: a clock or a count of what has run is the free value `t`, and some fields
of `mstatus`, `misa` and the hart's number follow from the machine. -/
def HartCpu.csrNow (c : HartCpu) (hart : Nat) (t : Word) (n : Nat) : Word :=
  match n with
  | 0x300 => .ofNat 64 (c.mstatus.toNat + 0xA00000000 + if fld c.mstatus 13 2 = 3 then 2 ^ 63 else 0)
  | 0x301 => 0x800000000014112D
  | 0xF14 => .ofNat 64 hart
  | 0xB00 | 0xB02 | 0xC00 | 0xC01 | 0xC02 => t
  | _ => c.csr.get 0 n

/-- Whether a hart may reach a control register: its mode, its status and the counters its mode may read. -/
def HartCpu.csrMay (c : HartCpu) (n : Nat) (write : Bool) : Bool :=
  bits n 8 2 ≤ c.mode.code && !(write && bits n 10 2 == 3) &&
    !(n ≤ 3 && fld c.mstatus 13 2 == 0) &&
    !(n == 0x180 && c.mode == .supervisor && flag c.mstatus 20) &&
    !(bits n 5 7 == 0x60 && ((c.mode != .machine && !flag (c.csr.get 0 0x306) (n % 32)) ||
      (c.mode == .user && !flag (c.csr.get 0 0x106) (n % 32))))

/-- A register's value that a write leaves, which keeps a mode or a translation that does not exist out. -/
def legalCsr (n : Nat) (old new : Word) : Word :=
  match n with
  | 0x300 => if fld new 11 2 = 2 then .ofNat 64 (putBits new.toNat 11 2 (fld old 11 2)) else new
  | 0x180 => if fld new 60 4 = 0 ∨ fld new 60 4 = 10 then new else old
  | _ => new

/-- `mstatus.FS` says that the floating-point registers have been written. -/
def HartCpu.dirty (c : HartCpu) : HartCpu :=
  { c with csr := c.csr.set 0 0x300 (.ofNat 64 (putBits c.mstatus.toNat 13 2 3)) }

/-- A write of a control register through its view. -/
def HartCpu.csrPut (c : HartCpu) (n : Nat) (v : Word) : HartCpu :=
  match c.csrView n with
  | none => c
  | some (base, sh, _, mask) =>
    let old := c.csr.get 0 base
    let c := { c with csr := c.csr.set 0 base (legalCsr base old ((old &&& ~~~mask) ||| ((v <<< sh) &&& mask))) }
    if base = 3 then c.dirty else c

/-- `fflags` with the flags of a floating-point instruction. -/
def HartCpu.accrue (c : HartCpu) (g : Nat) : HartCpu :=
  { c with csr := c.csr.set 0 3 (c.csr.get 0 3 ||| BitVec.ofNat 64 g) }.dirty

/-- The interrupt that a hart takes next: pending, enabled and of a mode that is. -/
def HartCpu.interrupt (c : HartCpu) : Option Nat :=
  let due := c.csr.get 0 0x344 &&& c.csr.get 0 0x304
  let deleg := c.csr.get 0 0x303
  let toM := due &&& ~~~deleg
  let toS := due &&& deleg
  let first (w : Word) : Option Nat := [11, 3, 7, 9, 1, 5].find? fun n => flag w n
  match if c.mode != .machine || flag c.mstatus 3 then first toM else none with
  | some n => some n
  | none => if c.mode == .user || (c.mode == .supervisor && flag c.mstatus 1) then first toS else none

/-- Two bytes of the instruction at an address, or why they are not read. -/
def State.hartParcel (s : State) (c : HartCpu) (a : Word) : Except (Nat × Word) Nat :=
  match s.hartByte c c.mode c.codeOk a.toNat with
  | .ok pa => if pa + 2 ≤ hbmEnd then .ok (ofBytes (s.rd pa 2)) else .error (1, a)
  | .error .page => .error (12, a)
  | .error .access => .error (1, a)

/-- The instruction at a hart's pc, and its length in bytes. -/
def State.hartFetch (s : State) (c : HartCpu) : Except (Nat × Word) (Nat × Nat) := do
  let lo ← s.hartParcel c c.pc
  if lo % 4 = 3 then
    let hi ← s.hartParcel c (c.pc + 2)
    .ok (hi * 65536 + lo, 4)
  else .ok (lo, 2)

/-- A hart's processor becomes another. -/
def State.putCpu (s : State) (hart : Nat) (c : HartCpu) : State := s.setHart hart { s.hartAt hart with cpu := c }

/-- After an access of a hart's instruction: the pc moves on, unless the access has raised an exception. -/
def State.hartPast (s : State) (hart len : Nat) (k : HartCpu → HartCpu := id) : State :=
  let x := s.hartAt hart
  if x.afault || x.pfault then s else s.putCpu hart (k { x.cpu with pc := x.cpu.pc + .ofNat 64 len })

/-- The word of an instruction as an atomic of `n` bytes; none where it is none (R109). -/
def State.hartAtomic (s : State) (hart w n : Nat) (a : Nat) (v : Word) : Option State :=
  let rd := bits w 7 5
  match bits w 27 5 with
  | 0x00 => some (s.hartAmo hart rd a n fun x => x + v.toNat)
  | 0x01 => some (s.hartAmo hart rd a n fun _ => v.toNat)
  | 0x02 => if bits w 20 5 = 0 then some (s.hartReserve hart rd a n) else none
  | 0x03 => some (s.hartCond hart rd a n v)
  | 0x04 => some (s.hartAmo hart rd a n fun x => x ^^^ v.toNat)
  | 0x08 => some (s.hartAmo hart rd a n fun x => x ||| v.toNat)
  | 0x0C => some (s.hartAmo hart rd a n fun x => x &&& v.toNat)
  | 0x10 => some (s.hartAmo hart rd a n fun x => amoPick false true n x v.toNat)
  | 0x14 => some (s.hartAmo hart rd a n fun x => amoPick true true n x v.toNat)
  | 0x18 => some (s.hartAmo hart rd a n fun x => amoPick false false n x v.toNat)
  | 0x1C => some (s.hartAmo hart rd a n fun x => amoPick true false n x v.toNat)
  | _ => none

/-- A return from a trap, to a mode at a saved pc: the interrupt enable of `mstatus` at `ie` is what its
`ie + 4` saved, and below machine mode MPRV is off. -/
def HartCpu.ret (c : HartCpu) (ie : Nat) (m : HMode) (prev width epc : Nat) : HartCpu :=
  let w := c.mstatus.toNat
  let w := putBits (putBits (putBits w ie 1 (bits w (ie + 4) 1)) (ie + 4) 1 1) prev width 0
  { c with mode := m, pc := c.csr.get 0 epc,
           csr := c.csr.set 0 0x300 (.ofNat 64 (if m == .machine then w else putBits w 17 1 0)) }

/-- An instruction of SYSTEM that reaches no control register: what it makes of the processor, whose pc is
the next instruction's or else its own; none where it is illegal. A wait may end at once. -/
def HartCpu.system (c : HartCpu) (w : Nat) (next : HartCpu) : Option HartCpu :=
  match w with
  | 0x00000073 => some (c.trap (8 + c.mode.code) 0)
  | 0x00100073 => some (c.trap 3 c.pc)
  | 0x30200073 =>
    if c.mode == .machine then
      some (c.ret 3 (match fld c.mstatus 11 2 with | 0 => .user | 1 => .supervisor | _ => .machine) 11 2 0x341)
    else none
  | 0x10200073 =>
    if c.mode == .machine || (c.mode == .supervisor && !flag c.mstatus 22) then
      some (c.ret 1 (if flag c.mstatus 8 then .supervisor else .user) 8 1 0x141)
    else none
  | 0x10500073 => if c.mode != .machine && flag c.mstatus 21 then none else some next
  | _ =>
    if bits w 25 7 = 9 ∧ bits w 7 5 = 0 ∧ bits w 12 3 = 0 ∧
        (c.mode = .machine ∨ (c.mode = .supervisor ∧ !flag c.mstatus 20))
    then some next else none

/-- An instruction that reaches a control register. -/
def HartCpu.csrOp (c : HartCpu) (hart : Nat) (t : Word) (w : Nat) (next : HartCpu) : Option HartCpu :=
  let n := bits w 20 12
  let f3 := bits w 12 3
  let src := bits w 15 5
  let v : Word := if 4 ≤ f3 then .ofNat 64 src else c.x.get 0 src
  let write := f3 % 4 == 1 || src != 0
  if f3 % 4 = 0 ∨ !c.csrMay n write then none
  else match c.csrView n with
    | none => none
    | some (base, sh, rmask, _) =>
      let old := (c.csrNow hart t base &&& rmask) >>> sh
      let new := match f3 % 4 with
        | 1 => v
        | 2 => old ||| v
        | _ => old &&& ~~~v
      some ((if write then next.csrPut n new else next).put (bits w 7 5) 8 false old)

/-- An instruction of a hart: `raw` are its bits and `w` the 32 bits they stand for. -/
def State.hartExec (s : State) (hart raw w len : Nat) : Out :=
  let c := (s.hartAt hart).cpu
  let x (r : Nat) : Word := c.x.get 0 r
  let rd := bits w 7 5
  let a := x (bits w 15 5)
  let b := x (bits w 20 5)
  let f3 := bits w 12 3
  let next : HartCpu := { c with pc := c.pc + .ofNat 64 len }
  let be (c : HartCpu) : Out := .next (s.putCpu hart c)
  let ill := be (c.trap 2 (.ofNat 64 raw))
  let gets (v : Option Word) : Out := match v with
    | some v => be (next.put rd 8 false v)
    | none => ill
  let jump (to_ : Word) : Out := be { next.put rd 8 false next.pc with pc := to_ }
  let mem (o : Out) (k : HartCpu → HartCpu := id) : Out := match o with
    | .next s => .next (s.hartPast hart len k)
    | o => o
  let noFp := fld c.mstatus 13 2 == 0
  let loadAt := (a + Rv.immI w).toNat
  let storeAt := (a + Rv.immS w).toNat
  match bits w 0 7 with
  | 0x37 => gets (some (Rv.immU w))
  | 0x17 => gets (some (c.pc + Rv.immU w))
  | 0x6F => jump (c.pc + Rv.immJ w)
  | 0x67 => if f3 = 0 then jump ((a + Rv.immI w) &&& ~~~1) else ill
  | 0x63 => match Rv.taken f3 a b with
    | some t => be (if t then { c with pc := c.pc + Rv.immB w } else next)
    | none => ill
  | 0x03 => if f3 = 7 then ill else mem (s.hartLoad hart rd loadAt (2 ^ (f3 % 4)) (f3 < 4))
  | 0x07 =>
    if noFp ∨ (f3 ≠ 2 ∧ f3 ≠ 3) then ill else mem (s.hartLoad hart (32 + rd) loadAt (2 ^ f3) false) HartCpu.dirty
  | 0x23 => if 3 < f3 then ill else mem (s.hartStore hart storeAt (2 ^ f3) b)
  | 0x27 =>
    if noFp ∨ (f3 ≠ 2 ∧ f3 ≠ 3) then ill
    else mem (s.hartStore hart storeAt (2 ^ f3) (c.f.get 0 (bits w 20 5)))
  | 0x13 => gets (Rv.opImm false w a)
  | 0x1B => gets (Rv.opImm true w a)
  | 0x33 => gets (Rv.op false (bits w 25 7) f3 a b)
  | 0x3B => gets (Rv.op true (bits w 25 7) f3 a b)
  | 0x0F => if f3 ≤ 1 then be next else ill
  | 0x2F =>
    if f3 ≠ 2 ∧ f3 ≠ 3 then ill
    else match s.hartAtomic hart w (2 ^ f3) a.toNat b with
      | some s' => mem (.next s')
      | none => ill
  | 0x73 =>
    if f3 = 0 then match c.system w next with
      | some c => be c
      | none => ill
    else match c.csrOp hart (.ofNat 64 (Config.freeNat s.free)) w next with
      | some c => .next (s.nextFree.putCpu hart c)
      | none => ill
  | 0x43 | 0x47 | 0x4B | 0x4F | 0x53 =>
    if noFp then ill
    else match Rv.float w (if f3 = 7 then fld (c.csr.get 0 3) 5 3 else f3) x (fun r => c.f.get 0 r) with
      | some (r, n, v, g) =>
        let next := if g ≠ 0 ∨ 32 ≤ r then next.accrue g else next
        be (next.put r n false v)
      | none => ill
  | _ => ill

/-- R307: a hart runs its next instruction, or takes an interrupt or the fault of its fetch first. -/
def State.hartStep (s : State) (hart : Nat) : Out :=
  let c := (s.hartAt hart).cpu
  if 64 ≤ hart ∨ !s.hartsRun then .next s
  else match c.interrupt with
    | some n => .next (s.putCpu hart (c.trap n 0 true))
    | none => match s.hartFetch c with
      | .error (cause, a) => .next (s.putCpu hart (c.trap cause a))
      | .ok (w, 4) => s.hartExec hart w w 4
      | .ok (h, len) => match Rv.expand h with
        | some w => s.hartExec hart h w len
        | none => .next (s.putCpu hart (c.trap 2 (.ofNat 64 h)))

/-- R307: an interrupt line of a hart's platform rises or falls: machine software, machine timer, supervisor
external or machine external (log 36). -/
def State.hartLine (s : State) (hart n : Nat) (on : Bool) : State :=
  let c := (s.hartAt hart).cpu
  if 64 ≤ hart ∨ ¬[3, 7, 9, 11].contains n then s
  else s.putCpu hart
    { c with csr := c.csr.set 0 0x344 (.ofNat 64 (putBits (c.csr.get 0 0x344).toNat n 1 (if on then 1 else 0))) }

end Sys2Proof.Machine
end

