-- ==== Sys2Proof/Machine/Fetch.lean ====
section
/-! DEFINITION. Instruction fetch (R30, R39, R48, R84, R96) and the faults of a base word that does
not decode. -/

namespace Sys2Proof.Machine

/-- R30: a byte as a fetch reads it: from the core's instruction cache where that holds its block. -/
def State.codeByte (s : State) : Loc → Byte
  | .hbm pa => match s.self.icache.find? fun b => b.1 == pa / 64 with
    | some b => b.2.getD (pa % 64) 0
    | none => SMap.get 0 s.mem pa
  | l => s.peek s.inst l

/-- Bytes of code at an address: translation and permission first (R48, R96). -/
def State.fetchN (s : State) (n : Nat) (a : Word) : T Word := do
  let l ← (List.range n).mapM fun k => s.locByte s.core s.inst .fetch ((a.toNat + k) % 2 ^ 64)
  .ok (.ofNat 64 (ofBytes (l.map s.codeByte)))

/-- A base word of code. -/
def State.fetch8 (s : State) (a : Word) : T Word := s.fetchN 8 a

/-- The cause of a base word that is no instruction, in the order of R48: what comes before a wrong
literal or operand class is checked on the fields alone. -/
def State.decodeCause (s : State) (f : Fields) : DecErr → Cause
  | .illegal => .illegalOp
  | e =>
    if !(opStreams f.op).contains s.stream then .streamMismatch
    else if opPriv f.op f.b && !s.inst.launch.priv then .priv
    else match e with
      | .form => .literalForm
      | _ => .operandClass

/-- A decoded instruction with its literal. The literal is fetched only after every decode check of
the base word has passed, and the padding behind one of 32 bits is not (R39, R48). -/
def State.fetchLit (s : State) (w : Word) (i : Instr) : T Instr := do
  if i.head.lit = .none then .ok i
  else
    let p ← s.fetchN i.head.lit.bytes (s.str.pc + 8)
    match decode w p with
    | .ok j => .ok j
    | .error _ => raiseT .illegalOp

/-- The instruction at the executing stream's pc (R39, R48). A decoded one that is at fault keeps its
fault for `issue`. -/
def State.fetch (s : State) : T Instr := do
  let pc := s.str.pc
  need (pc.toNat % 8 == 0) .align pc
  let w ← s.fetch8 pc
  match decode w 0 with
  | .error e => raiseT (s.decodeCause (Fields.of w) e)
  | .ok i => if (s.decodeFault i).isSome then .ok i else s.fetchLit w i

end Sys2Proof.Machine
end

