-- ==== Sys2Proof/Machine/Lookup.lean ====
section
/-! DEFINITION. The addresses that a step accesses, by which its core's TLB takes translations and counts its
misses (R97, R284; log 56), and which M passes commands of its queue by (R104; log 21). -/

namespace Sys2Proof.Machine

/-- R97, R284: an address is looked up in a core's TLB; a miss is counted, and a walk that succeeds enters. -/
def State.lookUp (s : State) (core a : Nat) : State :=
  let c := s.coreAt core
  match place a, c.act with
  | .global va, some i =>
    let va := va % 2 ^ 57
    if c.tlb.any fun e => e.asid == i.launch.asid && e.va ≤ va && va < e.va + e.size then s
    else (s.fill core va).count core 8 1
  | _, _ => s

/-- The same for runs of bytes, page by page of 64 KiB, the smallest there are (R95). -/
def State.lookUps (s : State) (core : Nat) (l : List (Nat × Nat)) : State :=
  l.foldl (fun s (a, n) =>
    (List.range (if n = 0 then 0 else (a + n - 1) / 65536 - a / 65536 + 1)).foldl (fun s k =>
      s.lookUp core (max a ((a / 65536 + k) * 65536) % 2 ^ 64)) s) s

/-- The runs at addresses that are multiples of their alignment; any other raises `ALIGN` and accesses
nothing. -/
def alignedRuns (l : List (Nat × Nat × Nat)) : List (Nat × Nat) :=
  l.filterMap fun (a, n, al) => if a % al = 0 then some (a, n) else none

/-- The active elements of a vector access (R202, R203). -/
def State.elemRuns (s : State) (m : Fin 8) (ty : Ty) (addr : Nat → T Nat) : List (Nat × Nat) :=
  let n := elemBytes ty
  alignedRuns (((List.range ty.lanes).filter (s.act m ty.width)).filterMap fun i =>
    (addr i).toOption.map fun a => (a, n, n))

/-- The sheaves of a stook that a vector access names, with the codes of their lanes (R205, R206). -/
def State.sheafRuns (s : State) (m : Fin 8) (ty : Ty) (w8 : Bool) (j0 a : Nat) : List (Nat × Nat) :=
  if a % 16 ≠ 0 then []
  else (List.range (ty.lanes / 32)).flatMap fun k =>
    let on := (List.range 32).filter fun t => s.act m ty.width (32 * k + t)
    if on.isEmpty then []
    else (a + hdrAt (j0 + k), 2) :: on.map fun t => (a + codeAt w8 (j0 + k) t, 1)

/-- The runs of an instruction that raises `ACCESS` at a global address without translating it (R131, R152,
R215). -/
def localRuns (l : List (Nat × Nat × Nat)) : List (Nat × Nat) :=
  (alignedRuns l).filter fun (a, _) => match place a with
    | .local_ _ => true
    | _ => false

/-- The addresses an instruction of the executing stream accesses, with their bytes. -/
def State.runs (s : State) : Instr → List (Nat × Nat)
  | .ld h _ _ _ sz _ a b | .st h _ _ sz a b _ => alignedRuns [(s.addr h a b, sz.bytes, sz.bytes)]
  | .ldl h _ sz _ a b | .stu h sz a b _ => localRuns [(s.addr h a b, sz.bytes, sz.bytes)]
  | .pref h a b => [(s.addr h a b, 1)]
  | .amoAdd h w _ _ a _ | .amoAnd h w _ _ a _ | .amoOr h w _ _ a _ | .amoXor h w _ _ a _ | .amoSmin h w _ _ a _
  | .amoSmax h w _ _ a _ | .amoUmin h w _ _ a _ | .amoUmax h w _ _ a _ | .amoSwap h w _ _ a _
  | .amoCas h w _ _ a _ _ =>
    let n := if w then 8 else 4
    alignedRuns [((s.val h .i64 a).toNat, n, n)]
  | .fld h _ a b | .fst h a b _ => alignedRuns [(s.addr h a b, 128, 16)]
  | .fpatchMem h _ _ a b => localRuns [(s.addr h a b, 8, 8)]
  | .vld h m ty _ a b | .vst h m ty a b _ => s.elemRuns m ty (unitAddr ty (s.addr h a b))
  | .vlds h m ty _ a b | .vsts h m ty a b _ => s.elemRuns m ty (strideAddr (s.val h .i64 a) (s.val h .i64 b))
  | .vgath h m ty k _ a b | .vscat h m ty k a b _ => s.elemRuns m ty (s.indexAddr h ty (s.val h .i64 a) b k)
  | .vldsh h m ty w8 j _ _ a | .vstsh h m ty _ _ w8 j _ _ a _ => s.sheafRuns m ty w8 j (s.val h .i64 a).toNat
  | .accld h _ b c | .accst h _ b c => if s.stream = .M then [] else alignedRuns [(s.addr h b c, 4096, 64)]
  | .wqpush h _ _ a | .wqcmt h _ _ _ a | .wqpop h _ _ _ a | .wqctlCreate h _ _ a | .wqctlRestart h _ _ a
  | .wqctlRead h _ _ a | .spawn h _ a => alignedRuns [((s.val h .i64 a).toNat, 64, 64)]
  | .tbarm h _ _ _ a _ _ | .tbwait h _ a _ | .tbarrive h a _ _ => localRuns [((s.val h .i64 a).toNat, 16, 16)]
  | .grwr h a b c =>
    let off := (s.val h .n64 a).toNat
    let n := (s.val h .n64 c).toNat
    if off % 64 = 0 ∧ n % 64 = 0 ∧ off + n ≤ granEnd ∧ !s.granHeld (dieOf s.core) then
      alignedRuns [((s.val h .i64 b).toNat, n, 64)]
    else []
  | _ => []

/-- An instruction of the executing stream reaches its own effect: what `issue` and `issueCmd` check before it
is met. -/
def State.reaches (s : State) (i : Instr) : Bool :=
  s.issues && (s.decodeFault i).isNone && match s.acquire 0 i.head.wsem i.head.wamt with
    | .ok (some e) => !e.latchBusy i && (e.inst.sound (spotsOf e.inst i e.stream)).toOption.isSome
    | _ => false

/-- The runs of a command's window in global memory. -/
def Cmd.globalRun (c : Cmd) (w : Nat) (o : Int) (n : Nat) : List (Nat × Nat) :=
  if fKind c.snap w == .global then [((o % 2 ^ 64).toNat, n)] else []

/-- The global addresses that an operation's next points access: those of one word of its destination (R85), a
block with its header (R228), or what an ordered reduce reads ahead. -/
def State.pointRuns (s : State) (c : Cmd) : List (Nat × Nat) :=
  let f := c.snap
  let n := fSize f 1
  let src (mode : CopyMode) (p : Word) (k : Nat) : List (Nat × Nat) :=
    let ix := pointAt (fBounds f) k
    if fPoints f ≤ k || (mode == .unfold && padded p ix) then [] else c.globalRun 0 (fOffset f 0 ix) n
  let dst (k : Nat) : Int := fOffset f 1 (pointAt (fBounds f) k)
  let pt := c.prog.pt
  if fPoints f ≤ pt then []
  else match c.op.copy with
    | none => []
    | some (.decode, _) =>
      let o : Int := fBase f 0 + c.prog.dsrc
      let len := match s.elemAt c .read 0 o 2 1 with
        | .ok l => ofBytes (l.map (s.elemByte c)) % 512
        | .error _ => 0
      c.globalRun 0 o (2 + len) ++ c.globalRun 1 (dst pt) 256
    | some (mode, p) =>
      if mode == .ordered && !c.prog.applied then src mode p (pt + c.prog.buf.length)
      else
        let same := (List.range 8).takeWhile fun k => pt + k < fPoints f && dst (pt + k) / 8 == dst pt / 8
        same.flatMap fun k => (if c.prog.buf.length ≤ k then src mode p (pt + k) else []) ++ c.globalRun 1 (dst (pt + k)) n

/-- The global addresses that the next step of a `WEAVE` reads, one in each page. -/
def State.stepRuns (s : State) (w : Weave) : List (Nat × Nat) :=
  let d := pairDepth w.pair w.sp
  let side (win pitch : Nat) (ty : Ty) (n lo : Nat) : List (Nat × Nat) :=
    if fKind w.c.snap win == .global then
      ((((List.range 32).drop lo).flatMap (s.rowBytes w win pitch ty n)).map fun o =>
        (o % 2 ^ 64).toNat / 65536).eraseDups.map fun k => (65536 * k, 1)
    else []
  side 0 w.p.pa w.pair.tys.1 (if w.sp then d / 2 else d) w.c.prog.stage.length ++ side 1 w.p.pb w.pair.tys.2 d 0

/-- The addresses that a Loom command accesses as it runs (R251 to R260). -/
def Cmd.imageRuns (c : Cmd) : List (Nat × Nat) :=
  match c.op with
  | .accld _ a | .accst a _ => alignedRuns [(a.toNat, 4096, 64)]
  | .drain ty _ _ a _ _ => drainRuns ty a.toNat c.block
  | .mdcopy o a n => if o.toNat + n.toNat ≤ 131072 then alignedRuns [(a.toNat, n.toNat, 16)] else []
  | .cbld _ a => alignedRuns [(a.toNat, 2304, 64)]
  | .reedld _ a => alignedRuns [(a.toNat, 8192, 64)]
  | _ => []

/-- The core whose engine an event moves, and the addresses that it accesses. -/
def State.eventRuns (s : State) : Instr → Nat × List (Nat × Nat)
  | .copyPoint core e _ =>
    let s := s.on core s.stream
    (core, match s.inst.op e with
      | some c => if c.prog.hold.isSome then [] else (s.on core c.st).pointRuns c
      | none => [])
  | .loomStep core =>
    let s := s.on core .M
    (core, match s.inst.op .loom with
      | some c => match Weave.of c with
        | some w =>
          if s.inst.steps c && c.prog.hold.isNone && c.prog.pt < w.total && (s.reedOk w).toOption.isSome then
            s.stepRuns w
          else []
        | none => []
      | none => [])
  | .loomCommandComplete core =>
    let s := s.on core .M
    (core, match s.inst.op .loom with
      | some c => if (s.inst.phase.live || s.inst.phase.isStopped) && !(c.shares && c.shared.isNone) then c.imageRuns
        else []
      | none => [])
  | _ => (0, [])

/-- The addresses a fetch reads: the base word's, and the literal's of an instruction that has one (R39, R48). -/
def State.fetchRuns (s : State) : List (Nat × Nat) :=
  let pc := s.str.pc
  if pc.toNat % 8 ≠ 0 then []
  else (pc.toNat, 8) :: match s.fetch8 pc with
    | .ok w => match decode w 0 with
      | .ok i => if i.head.lit = .none || (s.decodeFault i).isSome then [] else [((pc + 8).toNat, i.head.lit.bytes)]
      | .error _ => []
    | .error _ => []

/-- R104: what an instruction that M has completed accessed, noted with the commands of M's queue that it has
passed by (log 21). -/
def State.passedBy (s t : State) (l : List (Nat × Nat)) : State :=
  if s.stream == .M && !l.isEmpty && t.str.pc != s.str.pc then t.passes (l.flatMap fun (a, n) => s.spans a n) else t

/-- An instruction of the executing stream runs: its addresses are looked up, and it has its meaning `f`. A
`PREF` accesses nothing (R134). -/
def State.performs (s : State) (i : Instr) (f : State → Out) : Out :=
  let l := if s.reaches i then s.runs i else []
  match f (s.lookUps s.core l) with
  | .next t => .next (s.passedBy t (match i with
    | .pref _ _ _ => []
    | _ => l))
  | r => r

end Sys2Proof.Machine
end

