-- ==== Sys2Proof/Machine/PolicyRun.lean ====
section
/-! DEFINITION. The policy processors run RV32IMC (R1, log 36): the Reeve of a die and the supervisor of a
plot, which reaches the core ports of its plot (R290). -/

namespace Sys2Proof.Machine

/-- A policy processor. -/
def State.cpuAt (s : State) : Policer → Cpu32
  | .reeve die => (s.dieAt die).reeve.cpu
  | .supervisor plot => (s.plotAt plot).sup

/-- A policy processor becomes another. -/
def State.setCpu (s : State) (p : Policer) (c : Cpu32) : State :=
  match p with
  | .reeve die => let d := s.dieAt die; s.setDie die { d with reeve := { d.reeve with cpu := c } }
  | .supervisor plot => s.setPlot plot { s.plotAt plot with sup := c }

/-- Whether a policy processor is there and works (R1, R317). -/
def State.cpuUp (s : State) : Policer → Bool
  | .reeve die => die < 8 && (s.dieAt die).reeve.up
  | .supervisor plot => plot < 64 && (s.plotAt plot).supUp

/-- R1: the bytes of its memory, which lies at address 0 (log 40). -/
def Policer.memory : Policer → Nat
  | .reeve _ => reeveBytes
  | .supervisor _ => supervisorBytes

/-- R290: the core and the offset of its port that an address of a supervisor names. -/
def Policer.port : Policer → Nat → Option (Nat × Nat)
  | .reeve _, _ => none
  | .supervisor plot, a =>
    if 0x80000000 ≤ a ∧ a < 0x80000000 + 12 * 0x10000 then
      some (12 * plot + (a - 0x80000000) / 0x10000, a % 0x10000)
    else none

/-- Register `r` takes a value; `x0` stays 0. -/
def Cpu32.put (c : Cpu32) (r : Nat) (v : BitVec 32) : Cpu32 := if r = 0 then c else { c with x := c.x.set 0 r v }

/-- A load: the value and the state it leaves. A core port answers an aligned 32-bit access (R290); another
address, and a port's ignored access, give a free value (log 36). -/
def State.cpuLoad (s : State) (p : Policer) (a n : Nat) : Nat × State :=
  let open_ := (Config.freeNat s.free % 2 ^ (8 * n), s.nextFree)
  if a + n ≤ p.memory then (ofBytes ((s.cpuAt p).mem.getList 0 a n), s)
  else match p.port a with
    | some (core, off) =>
      if portAccess off n then
        let s := s.portRead core off
        ((s.coreAt core).port.data.toNat, s)
      else open_
    | none => open_

/-- A store. One to a core port is the supervisor's access (R290); at another address it has no effect
(log 36). -/
def State.cpuStore (s : State) (p : Policer) (a n : Nat) (v : BitVec 32) : Out :=
  if a + n ≤ p.memory then
    let c := s.cpuAt p
    .next (s.setCpu p { c with mem := c.mem.setList 0 a (toBytes n v.toNat) })
  else match p.port a with
    | some (core, off) => execCorePortWrite core off n (v.setWidth 64) s
    | none => .next s

/-- A policy processor goes on at an address. -/
def State.cpuGo (s : State) (p : Policer) (pc : BitVec 32) : State := s.setCpu p { s.cpuAt p with pc := pc }

/-- An instruction that is none, a system call, a breakpoint or a fetch outside the memory: RV32IMC names no
trap registers, so where the processor goes on is a free value (log 36). -/
def State.cpuTrap (s : State) (p : Policer) : State := s.nextFree.cpuGo p (.ofNat 32 (Config.freeNat s.free))

/-- The instruction at the pc, and its length in bytes; none outside the memory. -/
def Cpu32.fetch (c : Cpu32) (size : Nat) : Option (Nat × Nat) :=
  let parcel (a : BitVec 32) : Option Nat :=
    if a.toNat + 2 ≤ size then some (ofBytes (c.mem.getList 0 a.toNat 2)) else none
  (parcel c.pc).bind fun lo =>
    if lo % 4 = 3 then (parcel (c.pc + 2)).map fun hi => (hi * 65536 + lo, 4)
    else (Rv.expand32 lo).map fun w => (w, 2)

/-- An instruction of a policy processor: `w` are the 32 bits it stands for. -/
def State.cpuExec (s : State) (p : Policer) (w len : Nat) : Out :=
  let c := s.cpuAt p
  let x (r : Nat) : BitVec 32 := c.x.get 0 r
  let rd := bits w 7 5
  let a := x (bits w 15 5)
  let b := x (bits w 20 5)
  let f3 := bits w 12 3
  let next := c.pc + .ofNat 32 len
  let imm (i : Word) : BitVec 32 := i.setWidth 32
  let trap : Out := .next (s.cpuTrap p)
  let gets (v : Option (BitVec 32)) (to_ : BitVec 32 := next) : Out := match v with
    | some v => .next (s.setCpu p { c.put rd v with pc := to_ })
    | none => trap
  match bits w 0 7 with
  | 0x37 => gets (some (imm (Rv.immU w)))
  | 0x17 => gets (some (c.pc + imm (Rv.immU w)))
  | 0x6F => gets (some next) (c.pc + imm (Rv.immJ w))
  | 0x67 => if f3 = 0 then gets (some next) ((a + imm (Rv.immI w)) &&& ~~~1) else trap
  | 0x63 => match Rv.taken f3 a b with
    | some t => .next (s.cpuGo p (if t then c.pc + imm (Rv.immB w) else next))
    | none => trap
  | 0x03 =>
    if f3 = 3 ∨ 5 < f3 then trap
    else
      let (v, s) := s.cpuLoad p (a + imm (Rv.immI w)).toNat (2 ^ (f3 % 4))
      .next (s.setCpu p { c.put rd (if f3 < 4 then imm (Rv.sx (8 * 2 ^ f3) v) else .ofNat 32 v) with pc := next })
  | 0x23 =>
    if 2 < f3 then trap
    else match s.cpuStore p (a + imm (Rv.immS w)).toNat (2 ^ f3) b with
      | .next s => .next (s.cpuGo p next)
      | o => o
  | 0x13 => gets (Rv.opImm32 w a)
  | 0x33 => gets (Rv.opOf (bits w 25 7) f3 a b)
  | 0x0F => if f3 = 0 then .next (s.cpuGo p next) else trap
  | _ => trap

/-- R1: a policy processor that works runs its next instruction. -/
def State.policyStep (s : State) (p : Policer) : Out :=
  if !s.cpuUp p then .next s
  else match (s.cpuAt p).fetch p.memory with
    | some (w, len) => s.cpuExec p w len
    | none => .next (s.cpuTrap p)

end Sys2Proof.Machine
end

