-- ==== Sys2Proof/Machine/Time.lean ====
section
/-! DEFINITION. The passing of module time (R33 `cr.MTIME`) with the times that timeouts and counters
measure (R284, R317, R318, R321), and the turns that are no instruction and no event of the table. -/

namespace Sys2Proof.Machine

/-- R318: time towards an instance's timeouts. -/
def State.tick (s : State) (core ns : Nat) (i : Inst) : Inst :=
  if i.phase.live then
    if i.resident && s.residentIdle core i then i else { i with ranNs := i.ranNs + ns }
  else match i.phase with
    | .starting => i
    | _ => { i with stopNs := i.stopNs + ns }

/-- R318: a ticket's time, while its holder is neither STOPPED nor PREEMPTED. -/
def QEnt.tick (frozen : Nat → Bool) (ns : Nat) : QEnt → QEnt
  | .resv u t => .resv u (if frozen u then t else t + ns)
  | e => e

/-- Instances of a die that are STOPPED or PREEMPTED. -/
def State.frozen (s : State) (die uid : Nat) : Bool :=
  s.cores.any fun (k, c) => dieOf k == die &&
    (c.main.toList ++ c.pre.toList).any fun i => i.uid == uid && !i.phase.live && i.phase != .starting

/-- A die's times. -/
def State.tickDie (s : State) (ns die : Nat) (d : Die) : Die :=
  { d with
    reeve := if d.reeve.up then { d.reeve with beatNs := d.reeve.beatNs + ns } else d.reeve,
    parser := if d.parser.cur.isSome && d.parser.cur == d.serving then { d.parser with usedNs := d.parser.usedNs + ns }
      else d.parser,
    wq := d.wq.mapVals {} fun _ q => { q with ents := q.ents.map (QEnt.tick (s.frozen die) ns) } }

/-- R284: a Loom with a step in flight. A step that a refresh window holds is none: DESIGN CHOICE (log 56). -/
def Inst.stepping (i : Inst) : Bool :=
  i.phase.live && match running i.streams.m.eq with
    | some c => c.prog.hold.isNone && (Weave.of c).any fun w => c.prog.pt < w.total
    | none => false

/-- R284: streams of an instance that stall in semaphore waits. -/
def Inst.waiting (i : Inst) : Nat :=
  (i.waits.filter fun w => match w.1 with | .instr _ => true | _ => false).length

/-- R284: a node whose next instance waits for a grant on a plot with a free core for it. -/
def State.wantsGrant (s : State) (die n plot : Nat) (x : Node) : Bool :=
  match x.first with
  | none => false
  | some (k, _, _) =>
    x.draught != 0 && (lrPlots x.rec_).getLsbD plot && !s.grantFree die n x.draught plot &&
      !s.placeable die n x k && (List.range 12).any fun j =>
        let c := s.coreAt (12 * plot + j)
        c.main.isNone && c.pre.isNone && x.dieOk k (plot / 8)

/-- R284: events of a duration, counted on a core's plot. A core runs an instance while that is RUNNING or
DRAINING: DESIGN CHOICE (log 56). -/
def State.countTime (s : State) (core ns : Nat) (c : Core) : State :=
  match c.act with
  | none => s
  | some i =>
    if i.phase.live then
      ((s.count core 1 (2 * ns)).count core 4 (if i.stepping then ns else 0)).count core 6 (2 * ns * i.waiting)
    else s

/-- R284: waits for grants, counted on the plots that have none to give. -/
def State.countGrants (s : State) (ns : Nat) : State :=
  s.dies.foldl (fun t (die, d) => d.nodes.foldl (fun t (n, x) =>
    match x with
    | some x => if x.wait.isEmpty || x.draught = 0 then t else
      (List.range 64).foldl (fun t p => if s.wantsGrant die n p x then t.count (12 * p) 0x0C ns else t) t
    | none => t) t) s

/-- R314: module firmware's clock goes on, a second for every 10⁹ ns. -/
def Firmware.ticks (f : Firmware) (ns : Nat) : Firmware :=
  let t := f.clockNs + ns
  { f with clock := f.clock + t / 1000000000, clockNs := t % 1000000000 }

/-- Module time passes (R33). -/
def State.elapse (s : State) (ns : Nat) : State :=
  let t := (s.cores.foldl (fun t (k, c) => t.countTime k ns c) s).countGrants ns
  let now := s.mtime + .ofNat 64 ns
  let t := ((t.peers.map (·.1)).filter s.joined).foldl (State.slewPeer ns) t
  { t.nextFree with
    mtime := now,
    fw := s.fw.ticks ns,
    cores := t.cores.mapVals {} fun k c =>
      { c with main := c.main.map (s.tick k ns), pre := c.pre.map (s.tick k ns) },
    dies := t.dies.mapVals {} (s.tickDie ns),
    ports := t.ports.mapVals {} fun _ p => if p.up then { p with silentNs := p.silentNs + ns } else p }

/-- R97: a translation of the shown instance's address space enters its core's TLB before it is needed. -/
def State.tlbFill (s : State) (core va : Nat) : State :=
  if (s.coreAt core).act.isSome then s.fill core (va % 2 ^ 57) else s

/-- R97: a TLB drops an entry. -/
def State.tlbDrop (s : State) (core n : Nat) : State :=
  let c := s.coreAt core
  s.setCore core { c with tlb := c.tlb.eraseIdx n }

/-- R97: a table on the way to an address of the shown instance enters its die's walk cache. -/
def State.walkFill (s : State) (core va depth : Nat) : State :=
  let va := va % 2 ^ 57
  match (s.coreAt core).act with
  | none => s
  | some i =>
    match s.walkTo va depth levels (i.launch.root.toNat * 4096) with
    | some (size, t) =>
      let d := s.dieAt (dieOf core)
      s.setDie (dieOf core) { d with walks := ⟨i.launch.asid, va / size * size, size, depth, t⟩ :: d.walks }
    | none => s

/-- R97: a walk cache drops an entry. -/
def State.walkDrop (s : State) (die n : Nat) : State :=
  let d := s.dieAt die
  s.setDie die { d with walks := d.walks.eraseIdx n }

/-- R30: a block of HBM enters a core's instruction cache, which holds 1024 of them. -/
def State.codeFill (s : State) (core pa : Nat) : State :=
  let c := s.coreAt core
  let k := pa / 64
  if hbmEnd ≤ pa ∨ 768 ≤ core then s
  else s.setCore core { c with icache := ((k, s.rd (64 * k) 64) :: c.icache.filter (·.1 != k)).take 1024 }

/-- R30: an instruction cache drops a block. -/
def State.codeDrop (s : State) (core n : Nat) : State :=
  let c := s.coreAt core
  s.setCore core { c with icache := c.icache.eraseIdx n }

/-- R302: whether a core has a location: a held store or post is one while it is held. -/
def Inst.hasSpot (i : Inst) : Spot → Bool
  | .held st k => (i.streams.get st).eqDone ≤ k && k < (i.streams.get st).eqDone + (i.streams.get st).eq.length
  | _ => true

/-- R302: a location of a core gets an uncorrectable error. What `pcr.FADDR` will name it by is the given word,
but for a byte of memory the address or offset of the access that reads it (R246, log 31). -/
def State.coreError (s : State) (core : Nat) (spot : Spot) (loc : Word) : State :=
  let c := s.coreAt core
  match c.act with
  | none => s
  | some i =>
    if (i.badAt spot).isSome || !i.hasSpot spot then s else s.setCore core (c.setAct { i with bad := i.bad ++ [(spot, loc)] })

/-- R163: a byte of the spill ring of a queue, whose contents are undefined to every reader, changes. -/
def State.spillByte (s : State) (die q off : Nat) : State :=
  let w := s.wqAt die q
  if w.state == .free || 64 * 2 ^ fld w.desc 64 5 ≤ off then s
  else match s.spillSlot die w (.ofNat 32 (off / 64)) with
    | some pa => (s.wr (pa + off % 64) [Config.freeByte s.free]).nextFree
    | none => s

/-- R317: a plot supervisor halts. -/
def State.supervisorHalt (s : State) (plot : Nat) : State :=
  if (s.plotAt plot).supUp then s.setPlot plot { s.plotAt plot with supUp := false } else s

/-- R314: the operating system writes to its console. -/
def State.consoleOut (s : State) (b : List Byte) : State :=
  if 6 ≤ s.fw.stage then { s with fw := { s.fw with conOut := s.fw.conOut ++ b } } else s

/-- R90, R302: a unit of a die's granary gets an uncorrectable error. -/
def State.granaryError (s : State) (die unit_ : Nat) : State :=
  let d := s.dieAt die
  if 8 ≤ die || granEnd / 64 ≤ unit_ || d.granBad.contains unit_ then s
  else s.setDie die { d with granBad := unit_ :: d.granBad }

/-- R317: a Reeve's heartbeat arrives. -/
def State.heartbeat (s : State) (die : Nat) : State :=
  let d := s.dieAt die
  if d.reeve.up then s.setDie die { d with reeve := { d.reeve with beatNs := 0 } } else s

end Sys2Proof.Machine
end

