-- ==== Sys2Proof/Machine/Turn.lean ====
section
/-! DEFINITION. A turn of the agenda (log 1), and the module set up to run one given instruction
next (log 2). -/

namespace Sys2Proof.Machine

/-- A stream's turn (R30, R118, R141): a deliverable nudge comes before C's next instruction; a stream
that may not issue does nothing (log 6); otherwise the instruction at its pc is fetched and runs, or
the fault of its fetch is raised. The TLB takes what the fetch and the instruction look up (R97, R284). -/
def State.streamTurn (s : State) : Out :=
  if s.self.act.isNone then .next s
  else if s.stream == .C && s.inst.nudgeDue then .next s.deliver
  else if !s.issues then .next s
  else
    let s := s.lookUps s.core s.fetchRuns
    match s.fetch with
    | .error t => .next (s.raise s.stream t)
    | .ok i => s.performs i (exec i)

/-- An event's turn: an event of the table has its meaning, once its addresses are looked up (R97, R284); an
instruction is no event. -/
def State.eventTurn (s : State) (i : Instr) : Out :=
  if i.fields.isNone then exec i (s.lookUps (s.eventRuns i).1 (s.eventRuns i).2) else .next s

/-- One turn. -/
def Turn.run (t : Turn) (s : State) : Out :=
  match t with
  | .stream core st => (s.on core st).streamTurn
  | .event i => s.eventTurn i
  | .elapse ns => .next (s.elapse ns)
  | .tlbFill core va => .next (s.tlbFill core va)
  | .tlbDrop core n => .next (s.tlbDrop core n)
  | .walkFill core va depth => .next (s.walkFill core va depth)
  | .walkDrop die n => .next (s.walkDrop die n)
  | .codeFill core pa => .next (s.codeFill core pa)
  | .codeDrop core n => .next (s.codeDrop core n)
  | .coreError core spot loc => .next (s.coreError core spot loc)
  | .granaryError die u => .next (s.granaryError die u)
  | .granaryRead core e u => .next (s.granaryRead core e u)
  | .spillByte die q off => .next (s.spillByte die q off)
  | .handGroup die node group to_ => .next (s.handGroup die node group to_)
  | .supervisorHalt plot => .next (s.supervisorHalt plot)
  | .policyStep p => s.policyStep p
  | .hartStep hart => s.hartStep hart
  | .hartLine hart n on => .next (s.hartLine hart n on)
  | .powerShares w => .next (s.powerShares w)
  | .coolantFlow => .next s.coolantFlow
  | .peerExport module n e => .next (s.peerExport module n e)
  | .peerSkew module ns => .next (s.peerSkew module ns)
  | .linkResend port => .next (s.linkResend port)
  | .setClock sess t => .next (s.setClock sess t)
  | .consoleOut b => .next (s.consoleOut b)
  | .heartbeat die => .next (s.heartbeat die)
  | .policy die p => .next (s.newPolicy die p)

/-- The first turn of the agenda; where no agent moves, a nanosecond passes (log 1). -/
def State.turn (s : State) : Out :=
  match s.agenda with
  | [] => .next (s.elapse 1)
  | t :: rest => Turn.run t { s with agenda := rest }

/-- A stream that may run an opcode (R45). -/
def placeStream (op : Byte) : Stream := (opStreams op).headD .C

/-- The job header of a placed program (R14, R16): every stream active with the most registers of R17. -/
def placeHdr : BitVec 512 :=
  .ofNat 512 (putBits (putBits (putBits (putBits (putBits 0 256 48 0x202020202020) 304 4 8)
    352 9 384) 368 10 768) 464 5 31)

/-- The instance of a placed program. -/
def placeInst (uid : Nat) (pc : Word) : Inst :=
  { uid := uid, phase := .running, hdr := placeHdr,
    launch := { priv := true, root := 1 },
    streams := Five.all { pc := pc, active := true } }

/-- Where a placed program stands, as a virtual and as a physical address. -/
def placeAt : Nat := 0x10000

/-- Page tables that map the first 1 GiB onto itself for every use (R95): tables at 1000H, 2000H and
3000H. -/
def State.placeTables (s : State) : State :=
  ((s.wr 0x1000 (toBytes 8 0x2001)).wr 0x2000 (toBytes 8 0x3001)).wr 0x3000 (toBytes 8 0x3B)

/-- The bytes placed: the base word and eight bytes for a literal (R37, R39). -/
def placeBytes (nbits w : Nat) : List Byte := toBytes 16 (w % 2 ^ nbits)

/-- A RUNNING privileged instance on core 0 with an instruction at its pc, whose stream moves next
(log 2). -/
def State.place (s : State) (nbits w : Nat) : State :=
  let st := placeStream (.ofNat 8 (w / 2 ^ 56))
  let s := s.placeTables.wr placeAt (placeBytes nbits w)
  { s.setCore 0 { main := some (placeInst s.nextUid (.ofNat 64 placeAt)) } with
    nextUid := s.nextUid + 1, agenda := [.stream 0 st] }

end Sys2Proof.Machine
end

