-- ==== Sys2Proof/Safety.lean ====
section
/-! DEFINITION. What counts as a safe run, and the terms statements about a run use: an instruction that
is ready, one that completes, a state in which an instruction changed its own core only, the memory's
canonical form. -/

namespace Sys2Proof.Machine

/-- A step is safe when the machine goes on. -/
def Safe (o : Out) : Prop := ∃ t, o = .next t

/-- The memory's canonical form. -/
def State.memOk (s : State) : Prop := Memory.wf s.mem = true

/-- An instruction that runs in its stream is ready: the stream may issue, it passes the decode checks of
R48, its wait is granted (R12), no codebook bank it reads is being loaded (R184), what it reads by naming it
has no uncorrectable error (R302), and the storage it names is the instance's (R296). Its own effect starts
from `s1`. -/
def State.ready (s : State) (i : Instr) (s1 : State) : Prop :=
  s.issues = true ∧ s.decodeFault i = none ∧
    ∃ s0, s.acquire 0 i.head.wsem i.head.wamt = .ok (some s0) ∧ s0.latchBusy i = false ∧
      s0.inst.sound (spotsOf s0.inst i s0.stream) = .ok () ∧ s0.claims s0.core (unitsOf i) = .ok s1

/-- An instruction that hands a command to an engine is ready: its wait is the command's (R11). -/
def State.readyCmd (s : State) (i : Instr) (s1 : State) : Prop :=
  s.issues = true ∧ s.decodeFault i = none ∧ s.inst.sound (spotsOf s.inst i s.stream) = .ok () ∧
    s.claims s.core (unitsOf i) = .ok s1

/-- The address of the instruction that follows the stream's (R117). -/
def State.after (s : State) (i : Instr) : Word := s.str.pc + .ofNat 64 i.head.len

/-- An instruction at the stream's pc completes with the effect that led to `e`: the pc moves on, and its
post is made (R11, R118). -/
def State.completes (s : State) (i : Instr) (e : State) : Out :=
  .next (e.complete (s.after i) (postOf i.head))

/-- An instruction completes and the stream goes on at an address. -/
def State.goesTo (_ : State) (i : Instr) (pc : Word) (e : State) : Out :=
  .next (e.complete pc (postOf i.head))

/-- An instruction that hands a command over completes: its post is the command's (R219, R222, R233). -/
def State.handsOver (s : State) (i : Instr) (e : State) : Out := .next (e.complete (s.after i) [])

/-- A vector instruction's result (R180, R181): the lanes `on` names from `r`, every other lane the old
value's; the whole result is written and pushed, and the flags of the computed lanes ORed into `cr.OVF`. -/
def State.lanesDone (s : State) (on : Nat → Bool) (ty : Ty) (d : Dst) (r : Nat → Nat × Flags) : State :=
  let l := (List.range ty.lanes).map fun k => if on k then (r k).1 else lane (s.vold d) k ty.width
  let f : Flags := (List.range ty.lanes).foldr (fun k g => (if on k then (r k).2 else 0) ||| g) 0
  (s.vresult d (ofLanes ty.width l)).addFlags f

/-- A vector source can be read in the lanes `on` names: lane by lane the pattern and the flags of its
expansion (R179, R183). -/
def State.reads (s : State) (on : Nat → Bool) (h : Head) (ty : Ty) (a : VSrc) (x : Nat → Nat × Flags) : Prop :=
  ∀ k, k < ty.lanes → on k = true → s.vlane h ty a k = .ok (x k)

/-- A store instruction's element writes enter its stream's engine queue (R113); an element without bytes
is none. -/
def State.held (s : State) (els : List (List (Loc × Byte))) : State :=
  let l := els.filter (!·.isEmpty)
  if l = [] then s else s.setStr { s.str with eq := s.str.eq ++ [.store false false l] }

/-- No cause was raised between two states of one core: the instance is in the state it was in, in or
outside the job's handler. -/
def State.unraised (s t : State) : Prop :=
  t.inst.phase = s.inst.phase ∧ t.inst.inhnd = s.inst.inhnd

/-- Nothing outside the executing core changed but HBM, performance counters of its plot (R283), what the
shuttles have still to see (log 13) and the count of free values used (log 5). -/
def State.onlyCore (s t : State) : Prop :=
  { s with cores := t.cores, plots := t.plots, mem := t.mem, lag := t.lag, free := t.free } = t ∧
    (∀ k, k ≠ s.core → t.coreAt k = s.coreAt k) ∧ (∀ k, k ≠ plotOf s.core → t.plotAt k = s.plotAt k) ∧
    { t.plotAt (plotOf s.core) with perf := [] } = { s.plotAt (plotOf s.core) with perf := [] }

/-- Nothing of the executing core changed but its shown instance. -/
def State.onlyInst (s t : State) : Prop := t.self = s.self.setAct t.inst

/-- Nothing of an instance changed but its streams, its semaphores and rings, its handler copy, and that
what is written holds no error any longer (R302). -/
def Inst.onlyStreams (i j : Inst) : Prop :=
  { i with streams := j.streams, sem := j.sem, rings := j.rings, hg := j.hg, hage := j.hage, bad := j.bad } = j

/-- Nothing of a stream's registers changed but its pc, `%g` registers, age queue, granted waits and what
its engine queue holds. -/
def StreamSt.onlyResult (x y : StreamSt) : Prop :=
  { x with pc := y.pc, g := y.g, age := y.age, got := y.got, tbwait := y.tbwait, eq := y.eq,
           eqDone := y.eqDone } = y

/-- An instruction of one stream left every memory, the special registers and the other streams'
registers as they were: only its own pc, destination registers and age queue, and what posts change,
may differ. -/
def State.onlyResult (s t : State) : Prop :=
  t.mem = s.mem ∧ s.onlyCore t ∧ s.onlyInst t ∧ s.inst.onlyStreams t.inst ∧
    (∀ x, x ≠ s.stream → t.inst.streams.get x = s.inst.streams.get x) ∧ s.str.onlyResult t.str

/-- Every semaphore but the listed ones has the count it had. -/
def State.keepsSem (s t : State) (l : List (Fin 32)) : Prop :=
  ∀ n, n ∉ l → t.inst.semOf n = s.inst.semOf n

/-- Nothing was pushed onto the executing stream's age queue. -/
def State.keepsAge (s t : State) : Prop := t.inst.ages s.stream = s.inst.ages s.stream

/-- Every `%g` register of the executing stream but a destination reads as before. -/
def State.keepsG (s t : State) (d : Dst) : Prop :=
  ∀ n : Fin 32, d ≠ .reg n → t.inst.g s.stream n = s.inst.g s.stream n

end Sys2Proof.Machine
end

