-- ==== Sys2Proof/Certificates/Slice0/Obligations.lean ====
section
/-! DEFINITION. The statements for the provers: each says what rules of spec/ say of the machine, in the
terms of Safety.lean. -/

open Sys2Proof Sys2Proof.Machine

/-- R119: the two-operand instructions but division. For every type and operands, a ready one completes,
its result the exact value of the table of R119 taken modulo 2ⁿ and extended. -/
def Obligations.IntegerResults : Prop :=
  ∀ (h : Head) (ty : Ty) (d : Dst) (a b : Src) (sc : Fin 8) (s s1 : State),
    let n := ty.width
    let x := s1.opd h ty a
    let y := s1.opd h ty b
    let p := ty.wrap x
    let k := (y % n).toNat
    let bit2 (f : Word → Word → Word) : Int := (f (.ofInt 64 x) (.ofInt 64 y)).toInt
    let gives (i : Instr) (r : Int) : Prop :=
      s.ready i s1 → exec i s = s.completes i (s1.result d (ext ty r))
    gives (.add h ty d a b) (x + y) ∧ gives (.sub h ty d a b) (x - y) ∧ gives (.mul h ty d a b) (x * y) ∧
      gives (.mulh h ty d a b) (x * y / 2 ^ n) ∧ gives (.and h ty d a b) (bit2 (· &&& ·)) ∧
      gives (.or h ty d a b) (bit2 (· ||| ·)) ∧ gives (.xor h ty d a b) (bit2 (· ^^^ ·)) ∧
      gives (.andn h ty d a b) (bit2 fun u v => u &&& ~~~v) ∧ gives (.shl h ty d a b) (x * 2 ^ k) ∧
      gives (.shr h ty d a b) (p / 2 ^ k : Nat) ∧
      gives (.sra h ty d a b) ((Ty.intOf true n).int p / 2 ^ k) ∧
      gives (.rot h ty d a b) (p * 2 ^ k + p / 2 ^ (n - k) : Nat) ∧
      gives (.min h ty d a b) (min x y) ∧ gives (.max h ty d a b) (max x y) ∧
      gives (.addx h sc ty d a b) (x + y * 2 ^ sc.val)

/-- R120: division truncates toward zero, the remainder has the sign of the dividend; by zero the results
are −1 and the dividend, and DZ is set. A ready `DIV` or `REM` completes. -/
def Obligations.DivisionResults : Prop :=
  ∀ (h : Head) (ty : Ty) (d : Dst) (a b : Src) (s s1 : State),
    let x := s1.opd h ty a
    let y := s1.opd h ty b
    let div : Instr := .div h ty d a b
    let rem : Instr := .rem h ty d a b
    (s.ready div s1 → exec div s = s.completes div
      (if y = 0 then (s1.result d (ext ty (-1))).addFlags Flags.dz else s1.result d (ext ty (x.tdiv y)))) ∧
    (s.ready rem s1 → exec rem s = s.completes rem
      (if y = 0 then (s1.result d (ext ty x)).addFlags Flags.dz
        else s1.result d (ext ty (x - x.tdiv y * y))))

/-- R121 to R123, R43: the one-operand instructions, comparison, selection, bit fields and `NOP`. A ready one
completes with the result of its rule: for `CLZ` the r with p < 2ⁿ⁻ʳ and no larger one, for `CTZ` the
place of the lowest set bit; `EXT` gives the field of `len` bits at p, sign-extended under I64, `INS` the old
register with the bits of A in the places from p up to p + len, none beyond 63. -/
def Obligations.UnarySelectAndBitFieldResults : Prop :=
  ∀ (h : Head) (ty : Ty) (c : Cond) (r : Fin 32) (d : Dst) (a b e : Src) (len1 : BitVec 6) (s s1 : State),
    let n := ty.width
    let x := s1.opd h ty a
    let y := s1.opd h ty b
    let p := ty.wrap x
    let holds : Prop := match c with
      | .eq => x = y | .ne => x ≠ y | .lt => x < y | .ge => x ≥ y | .le => x ≤ y | .gt => x > y
    let gives (i : Instr) (r : Int) : Prop :=
      s.ready i s1 → exec i s = s.completes i (s1.result d (ext ty r))
    let u := s1.val h ty a
    let pos := (s1.val h ty b).toNat % 64
    let len := len1.toNat + 1
    let field := u.toNat / 2 ^ pos % 2 ^ len
    let ext_ : Instr := .ext h ty d a b len1
    let ins_ : Instr := .ins h ty (.reg r) a b len1
    gives (.mov h ty d a) p ∧ gives (.not h ty d a) (2 ^ n - 1 - (p : Int)) ∧ gives (.neg h ty d a) (-(p : Int)) ∧
      (∀ r, r ≤ n → p < 2 ^ (n - r) → (r < n → 2 ^ (n - r - 1) ≤ p) → gives (.clz h ty d a) (r : Nat)) ∧
      gives (.popc h ty d a) ((List.range n).filter fun k => p / 2 ^ k % 2 = 1).length ∧
      (∀ r, r ≤ n → p % 2 ^ r = 0 → (r < n → p / 2 ^ r % 2 = 1) → gives (.ctz h ty d a) (r : Nat)) ∧
      (s.ready (.cmp h c ty d a b) s1 →
        (holds → exec (.cmp h c ty d a b) s = s.completes (.cmp h c ty d a b) (s1.result d 1)) ∧
        (¬holds → exec (.cmp h c ty d a b) s = s.completes (.cmp h c ty d a b) (s1.result d 0))) ∧
      gives (.sel h ty d a b e) (if s1.opd h ty e = 0 then y else x) ∧
      (s.ready (.nop h) s1 → exec (.nop h) s = s.completes (.nop h) s1) ∧
      (s.ready ext_ s1 → exec ext_ s = s.completes ext_ (s1.result d
        (if ty = .i64 ∧ 2 ^ (len - 1) ≤ field then .ofInt 64 ((field : Int) - 2 ^ len) else .ofNat 64 field))) ∧
      (s.ready ins_ s1 → ∃ w : Word, exec ins_ s = s.completes ins_ (s1.result (.reg r) w) ∧
        ∀ k, k < 64 → w.getLsbD k =
          if pos ≤ k ∧ k < pos + len then u.getLsbD (k - pos) else (s1.inst.g s1.stream r).getLsbD k)

/-- R124 to R128: branches, jumps, calls, returns and `LOOP` complete with the transfer of their rule; a
computed target that is no multiple of 8 raises `ALIGN` instead, with the target in `pcr.FADDR`. -/
def Obligations.ControlTransferResults : Prop :=
  ∀ (h : Head) (c : Cond) (hint : Hint) (uns : Bool) (d : Dst) (a b t : Src) (s s1 : State),
    let v := s1.val h .i64
    let rel := s1.str.pc + 8 * v t
    let abs := v a
    let back := s1.nextPc h
    let x : Int := if uns then (v a).toNat else (v a).toInt
    let y : Int := if uns then (v b).toNat else (v b).toInt
    let holds : Prop := match c with
      | .eq => x = y | .ne => x ≠ y | .lt => x < y | .ge => x ≥ y | .le => x ≤ y | .gt => x > y
    let called := (s1.result d back).rasPush back
    let returned := s1.setStr { s1.str with ras := s1.str.ras.drop 1 }
    let k := (s1.val h .n64 a).toNat
    let computed (i : Instr) (e : State) : Prop := s.ready i s1 →
      (abs.toNat % 8 = 0 → exec i s = s.goesTo i abs e) ∧
      (abs.toNat % 8 ≠ 0 → exec i s = .next (s1.raise s1.stream ⟨.align, abs⟩))
    (s.ready (.br h c hint uns a b t) s1 →
      (holds → exec (.br h c hint uns a b t) s = s.goesTo (.br h c hint uns a b t) rel s1) ∧
      (¬holds → exec (.br h c hint uns a b t) s = s.completes (.br h c hint uns a b t) s1)) ∧
    (s.ready (.jmp h t) s1 → exec (.jmp h t) s = s.goesTo (.jmp h t) rel s1) ∧
    (s.ready (.call h d t) s1 → exec (.call h d t) s = s.goesTo (.call h d t) rel called) ∧
    computed (.jmpAbs h a) s1 ∧ computed (.callAbs h d a) called ∧ computed (.ret h a) returned ∧
    (s.ready (.loop h d a t) s1 →
      (1 < k → exec (.loop h d a t) s = s.goesTo (.loop h d a t) rel (s1.result d (.ofNat 64 (k - 1)))) ∧
      (k ≤ 1 → exec (.loop h d a t) s = s.completes (.loop h d a t) (s1.result d 0)))

/-- R130, R131, R134, R113 and logs 8 and 26: loads, stores and `PREF` complete. A load gives the bytes its
stream sees at the address, extended; another stream's store than C's enters its engine queue; an `LDL`
takes the lock of its address where it is free, an `STU` is a release. That a store of C, which has no
engine queue, is performed at once is the model's choice of log 8; that the performed store of an `STU` to
the lock's address is what gives the lock back, so that an `LDL` behind an `STU` waits, is that of log 26. -/
def Obligations.LoadStoreResults : Prop :=
  ∀ (h : Head) (sc : Scope) (o sx : Bool) (sz : Size) (d : Dst) (a b c : Src) (s s1 : State) (l : List Loc),
    let n := sz.bytes
    let ad := s1.addr h a b
    let data := toBytes n (s1.val h (Ty.intOf true (8 * n)) c).toNat
    let word (t : State) : Word :=
      let x := ofBytes (t.load s1.stream l)
      if sx then .ofInt 64 ((BitVec.ofNat (8 * n) x).toInt) else .ofNat 64 x
    let queued (rel unl : Bool) : State :=
      s1.setStr { s1.str with eq := s1.str.eq ++ [.store rel unl [l.zip data]] }
    let ld : Instr := .ld h sc o sx sz d a b
    let st : Instr := .st h sc o sz a b c
    let ldl : Instr := .ldl h sx sz d a b
    let stu : Instr := .stu h sz a b c
    let key := lockOf (ad % 2 ^ 21)
    let s2 := s1.setStr { s1.str with lock := none }
    let s3 := s2.setStr { s2.str with lock := some key }
    let ready_ (acc : Acc) (i : Instr) : Prop :=
      s.ready i s1 ∧ s1.scalarAt acc ad n = .ok l ∧ s1.free_ l = true
    let stored : State := s1.pokes (some s1.me) (l.zip data)
    (ready_ .read ld → exec ld s = s.completes ld (s1.result d (word s1))) ∧
    (ready_ .write st → s1.stream = .C → exec st s = s.completes st stored) ∧
    (ready_ .write st → s1.stream ≠ .C → s1.str.stores < 16 →
      exec st s = s.completes st (queued (o && sc != .stream) false)) ∧
    (s.ready (.pref h a b) s1 → exec (.pref h a b) s = s.completes (.pref h a b) s1) ∧
    (∀ off, ready_ .read ldl → place ad = .local_ off → s1.str.unlocking = false →
      s2.lockFree s2.stream key s2.inst.ldlq = true → exec ldl s = s.completes ldl (s3.result d (word s3))) ∧
    (∀ off, ready_ .write stu → place ad = .local_ off → s1.stream = .C →
      exec stu s = s.completes stu (stored.setInst (stored.inst.unlock .C (l.zip data)))) ∧
    (∀ off, ready_ .write stu → place ad = .local_ off → s1.stream ≠ .C → s1.str.stores < 16 →
      exec stu s = s.completes stu (queued true true))

/-- R132, R99, R100, R302: an `AMO` whose address is permitted and holds no error, behind nothing of its own
stream, and whose lock is free completes: memory receives the new value, the result is the old one. -/
def Obligations.AtomicResults : Prop :=
  ∀ (h : Head) (w64 : Bool) (sc : Scope) (d : Dst) (a b c : Src) (s s1 : State) (l : List Loc),
    let n := if w64 then 8 else 4
    let w := 8 * n
    let ad := (s1.val h .i64 a).toNat
    let ty := Ty.intOf true w
    let v := (s1.val h ty b).toNat % 2 ^ w
    let e := (s1.val h ty c).toNat % 2 ^ w
    let sg (x : Nat) : Int := (BitVec.ofNat w x).toInt
    let gives (i : Instr) (new : Nat → Nat) : Prop :=
      s.ready i s1 → s1.scalarAt .write ad n = .ok l → s1.inst.soundAt localBase l = .ok () → s1.unheld l = true →
      s1.free_ l = true → (sc = .stream ∨ s1.str.performed = true) → (∀ off, place ad = .local_ off → s1.tryLock (lockOf off) = true) →
      exec i s = s.completes i (amoNow d n l new s1)
    gives (.amoAdd h w64 sc d a b) (fun m => (m + v) % 2 ^ w) ∧
    gives (.amoAnd h w64 sc d a b) (fun m => m &&& v) ∧ gives (.amoOr h w64 sc d a b) (fun m => m ||| v) ∧
    gives (.amoXor h w64 sc d a b) (fun m => m ^^^ v) ∧
    gives (.amoSmin h w64 sc d a b) (fun m => if sg v < sg m then v else m) ∧
    gives (.amoSmax h w64 sc d a b) (fun m => if sg m < sg v then v else m) ∧
    gives (.amoUmin h w64 sc d a b) (fun m => min m v) ∧ gives (.amoUmax h w64 sc d a b) (fun m => max m v) ∧
    gives (.amoSwap h w64 sc d a b) (fun _ => v) ∧
    gives (.amoCas h w64 sc d a b c) (fun m => if m = e then v else m)

/-- R135: a control-register instruction completes; its result is the register as read, and the writing
forms write it with the operand read before. -/
def Obligations.ControlRegisterResults : Prop :=
  ∀ (h : Head) (d : Dst) (crn : BitVec 9) (a : Src) (s s1 : State),
    let old := s1.csr crn
    let v := s1.val h .i64 a
    let wrote (f : Word → Word → Word) (clr : Word) : State :=
      (s1.csWrite s1.core s1.inst s1.stream crn.toNat f v clr).result d old
    let gives (i : Instr) (e : State) : Prop := s.ready i s1 → exec i s = s.completes i e
    gives (.csrd h d crn) (s1.result d old) ∧ gives (.cswr h d crn a) (wrote (fun _ v => v) v) ∧
      gives (.csset h d crn a) (wrote (fun o v => o ||| v) 0) ∧
      gives (.csclr h d crn a) (wrote (fun o v => o &&& ~~~v) v)

/-- R32, R33, R35, R135: how a control register is written, field by field: an RW field takes the new value, a W1C flag
is cleared where the operand has it set, and everything else reads as before. It holds for every register
number and every stream; `cr.NUDGEVEC` of a stream other than C reads zero before and after (R32). Every
other register reads as before, and nothing else changes: the state is the old one but for the fields that the
registers of R33 and R35 show, of the executing stream, its instance and its core. -/
def Obligations.ControlRegisterFields : Prop :=
  ∀ (n : Nat) (f : Word → Word → Word) (v clr : Word) (s : State), s.self.act.isSome = true →
    let t := s.csWrite s.core s.inst s.stream n f v clr
    let old := s.csRead s.core s.inst s.stream n
    let rw_ := crRw n
    let w1c := crW1c n
    (n ≠ 0x011 ∨ s.stream = .C →
      t.csRead t.core t.inst t.stream n =
        (f old v &&& rw_) ||| (old &&& w1c &&& ~~~clr) ||| (old &&& ~~~(rw_ ||| w1c))) ∧
    (n = 0x011 → s.stream ≠ .C → old = 0 ∧ t.csRead t.core t.inst t.stream n = 0) ∧
    (∀ m, m ≠ n → t.csRead t.core t.inst t.stream m = s.csRead s.core s.inst s.stream m) ∧
    let c := t.self
    let j := t.inst
    let y := t.str
    let str (x : StreamSt) : StreamSt :=
      { x with rnd := y.rnd, cvpol := y.cvpol, tag := y.tag, cbpol := y.cbpol, shpol := y.shpol }
    t = s.setCore s.core (({ s.self with ctxbase := c.ctxbase, regEn := c.regEn, remapBase := c.remapBase,
                                         remapCnt := c.remapCnt, fpc := c.fpc }).setAct
      (({ s.inst with ovf := j.ovf, nudgevec := j.nudgevec, trapvec := j.trapvec }).modStr s.stream str))

/-- R137, R139 to R144, R156, R111: the instructions of the job's and the nudge handler, `WAITI`, `PAUSE`,
`RDV`, and the two that raise a cause after they complete and their post is made; with a post they stall
while an access of their stream is not performed. `RDV` releases the lock, unless an `STU` of the stream
still has to do so (log 26). `NUDGEARM` replaces the arm bits and gives the old
ones; with the new ARM[1] set it reads B, which names the watched queue, and sets QP where that queue has a
deliverable record; a number of 2048 or more raises `ACCESS`. The model's choice are that of log 71, where the
post of an `SVC` or a `BRK` overflows and its own cause is then not raised, of log 22, that `RETF` lets the Loom
start again, and of log 29, that with the new ARM[1] clear the watched queue and QP stay. -/
def Obligations.HandlerInstructionResults : Prop :=
  ∀ (h : Head) (code : Byte) (d : Dst) (a b : Src) (s s1 : State),
    let i1 := s1.inst
    let done (i : Instr) : State := s1.complete (s.after i) (postOf h)
    let posts : Prop := h.pamt = 0 ∨ s1.str.performed = true
    let raises (i : Instr) (c : Cause) : Prop :=
      (s.ready i s1 → posts → exec i s =
        .next (if (done i).inst.phase.live then (done i).raise (done i).stream ⟨c, 0⟩ code else done i)) ∧
      (s.ready i s1 → ¬posts → exec i s = .next s1)
    let lock := if s1.str.freeing then s1.str.lock else none
    let toC (i : Inst) (pc : Word) : State := s1.setInst (i.modStr .C fun x => { x with pc := pc })
    let next := s1.str.pc + .ofNat 64 h.len
    let cycles := min (max (s1.val h .n64 a).toNat 1) 4096
    let narm : Instr := .nudgearm h d a b
    let arm : BitVec 2 := (s1.val h .i64 a).setWidth 2
    let q := s1.val h .n64 b
    let old : Word := i1.arm.setWidth 64
    let pend := i1.qp || (s1.wqAt (dieOf s1.core) q.toNat).deliverable
    let sound : Prop := i1.sound (([b.use 64] : List Use).filterMap (i1.useSpot s1.stream false)) = .ok ()
    raises (.svc h code) .svc ∧ raises (.brk h code) .brk ∧
    (s.ready (.retf h) s1 → exec (.retf h) s =
      s.goesTo (.retf h) i1.trappc (toC { i1 with inhnd := false, loomHeld := false } i1.trappc)) ∧
    (s.ready (.nudgeret h) s1 → exec (.nudgeret h) s = s.goesTo (.nudgeret h) i1.nudgepc
      (toC { i1 with srcTbar := false, srcQueue := false, nmask := false } i1.nudgepc)) ∧
    (s.ready (.waiti h) s1 → exec (.waiti h) s = .next (s1.setInst { i1 with waiti := some h })) ∧
    (s.ready (.pause h a) s1 → exec (.pause h a) s = .next (let e := s1.advance next
      e.setStr { e.str with pause := some (2 * e.mtime.toNat + cycles, h) })) ∧
    (s.ready (.rdv h) s1 → exec (.rdv h) s = s.completes (.rdv h)
      (s1.setInst (Inst.rdvDone (i1.modStr s1.stream fun x => { x with rdv := true, lock := lock })))) ∧
    (s.ready narm s1 → arm.getLsbD 1 = false →
      exec narm s = s.completes narm ((s1.setInst { i1 with arm := arm }).result d old)) ∧
    (s.ready narm s1 → arm.getLsbD 1 = true → sound → q.toNat < 2048 → exec narm s = s.completes narm
      ((s1.setInst { i1 with arm := arm, watch := some q.toNat, qp := pend }).result d old)) ∧
    (s.ready narm s1 → arm.getLsbD 1 = true → sound → 2048 ≤ q.toNat →
      exec narm s = .next (s1.raise s1.stream ⟨.access, q⟩))

/-- R110, R114, R145, R146, R148 to R151: fences and privileged instructions complete. `FENCE` does once every
earlier access of its stream is performed, one with stream scope already once its commands are; a `FENCE.X`
of no queue at once, any other places its markers and stalls: in the named engine queues behind what they
hold, and for mask bit 4 behind every copy in the shuttle queue or running. -/
def Obligations.SystemInstructionResults : Prop :=
  ∀ (h : Head) (sc : Scope) (mask : BitVec 5) (d : Dst) (a b c : Src) (l : List Loc) (s s1 t : State),
    let va := (s1.val h .i64 a).toNat % 2 ^ 57
    let asid : BitVec 16 := (s1.val h .n64 b).setWidth 16
    let keep (sp : BitVec 16) (base size : Nat) : Bool :=
      !(canonical (s1.val h .i64 a).toNat && sp == asid && base ≤ va && va < base + size)
    let off := (s1.val h .n64 a).toNat
    let src := (s1.val h .i64 b).toNat
    let len := (s1.val h .n64 c).toNat
    let now := s1.mtime.toNat
    let from_ := (s1.val h .n64 b).toNat
    let to_ := (s1.val h .n64 c).toNat
    let at_ := s1.self.remapBase.toNat * 4096 + 16 * off
    let gives (i : Instr) (e : State) : Prop := exec i s = s.completes i e
    (s.ready (.fence h sc) s1 → s1.str.performed = true ∨ (sc = .stream ∧ s1.str.cmds = 0) →
      gives (.fence h sc) s1) ∧
    (s.ready (.fence h sc) s1 → s1.str.performed = false → sc ≠ .stream → exec (.fence h sc) s = .next s1) ∧
    (s.ready (.fenceX h 0) s1 → gives (.fenceX h 0) s1) ∧
    (s.ready (.fenceX h mask) s1 → mask ≠ 0 →
      ∃ e, exec (.fenceX h mask) s = .next e ∧ e.str.join = some h ∧ e.str.pc = s1.str.pc ∧
        e.str.joinShq = (if mask.getLsbD 4 then (s1.inst.shq ++ s1.inst.copies).map (·.id) else []) ∧
        ∀ st, (e.inst.streams.get st).eq = (s1.inst.streams.get st).eq ++
          if (st = .L ∧ mask.getLsbD 0) ∨ (st = .M ∧ mask.getLsbD 1) ∨ (st = .V ∧ mask.getLsbD 2) ∨
            (st = .S ∧ mask.getLsbD 3) then [.marker s1.stream] else []) ∧
    (s.ready (.tlbinv h) s1 → gives (.tlbinv h) (s1.tlbs fun _ _ _ => false)) ∧
    (s.ready (.tlbinvA h a b) s1 → gives (.tlbinvA h a b) (s1.tlbs keep)) ∧
    (s.ready (.grwr h a b c) s1 → off % 64 = 0 → src % 64 = 0 → len % 64 = 0 → off + len ≤ 0x20000000 →
      s1.granHeld (dieOf s1.core) = false → s1.free_ l = true →
      s1.readable src len = (l, none) → gives (.grwr h a b c) (s1.granWrite off (s1.load s1.stream l))) ∧
    (s.ready (.grq h d a) s1 → off < 64 → gives (.grq h d a)
      (s1.result d (.ofNat 64 (now + (500 * off + 32000 - now % 32000) % 32000)))) ∧
    (s.ready (.remapset h a b c) s1 → off < s1.self.remapCnt.toNat → from_ % 4096 = 0 → to_ % 4096 = 0 →
      from_ < 0x018000000000 → to_ < 0x018000000000 →
      s1.devWrite at_ (toBytes 8 (from_ + if to_ = 0 then 0 else 1) ++ toBytes 8 to_) = .ok t →
      gives (.remapset h a b c) t)

/-- R154, R158, R159: semaphore instructions, `TAGSET` and `QDROP` complete. A `SEMWAIT` of a count that
suffices, with no earlier waiter, takes its amount; otherwise it joins the waiters. That the post of a `SEMSET`
follows its own set, also where both name one semaphore, is the model's choice of log 71. -/
def Obligations.SemaphoreAndTagResults : Prop :=
  ∀ (h : Head) (n : Fin 32) (d : Dst) (a : Src) (q : DropQ) (t : Stream) (s s1 e : State),
    let k := (s1.val h .n64 a).toNat
    let tag : BitVec 6 := (s1.val h .n64 a).setWidth 6
    let i1 := s1.inst
    let wait : Instr := .semwait h n a
    let drop : Instr := .qdrop h q d a
    let own := if h.wamt = 0 then 0 else 1
    let gone (c : Cmd) : Bool := c.tag == tag && !c.started && (c.op matches .lsync | .cbq _ _) == false
    let shq := { i1 with
      shq := i1.shq.filter (!gone ·), timed := i1.timed.filter (!gone ·),
      waits := if (i1.shq.head?.map gone).getD false then i1.waits.filter (fun w => w.1 != Waiter.shuttle) else i1.waits }
    let eq := (i1.streams.get t).eq
    let goneIt : EqItem → Bool
      | .cmd c => gone c
      | _ => false
    let inq := { i1 with
        waits := if ((firstCmd eq).map gone).getD false then i1.waits.filter (fun w => w.1 != Waiter.queue t) else i1.waits
      }.modStr t fun x => { x with eq := x.eq.map fun it => if goneIt it then .gone else it }
    let dropped := ((s1.setInst inq).result d (.ofNat 64 (eq.filter goneIt).length)).complete
      (s.after drop) (postOf h)
    (s.ready wait s1 → k ≤ 65535 → s1.acquire own n k = .ok (some e) → exec wait s = s.completes wait e) ∧
    (s.ready wait s1 → k ≤ 65535 → s1.acquire own n k = .ok none →
      exec wait s = .next (s1.enlist (.instr s1.stream) n k)) ∧
    (s.ready (.sempost h n a) s1 → k ≤ 65535 → exec (.sempost h n a) s =
      .next (s1.complete (s.after (.sempost h n a)) ((if k = 0 then [] else [(n, k)]) ++ postOf h))) ∧
    (s.ready (.semset h d n a) s1 → k ≤ 65535 → s1.str.performed = true → exec (.semset h d n a) s =
      s.completes (.semset h d n a) ((s1.setInst (i1.setSem n k)).result d (.ofNat 64 (i1.semOf n)))) ∧
    (s.ready (.semrd h d n) s1 → exec (.semrd h d n) s =
      s.completes (.semrd h d n) (s1.result d (.ofNat 64 (i1.semOf n)))) ∧
    (s.ready (.tagset h d a) s1 → exec (.tagset h d a) s = s.completes (.tagset h d a)
      ((s1.setStr { s1.str with tag := tag }).result d (s1.str.tag.setWidth 64))) ∧
    (s.ready drop s1 → q = .shuttle → exec drop s = s.completes drop
      ((s1.setInst shq).result d (.ofNat 64 ((i1.shq ++ i1.timed).filter gone).length))) ∧
    (s.ready drop s1 → dropStream q = some t →
      exec drop s = .next (if dropped.inst.phase.live then dropped.settle t else dropped))

/-- R165 to R169, R281, R285: the work-queue instructions complete, each with the effect and the status word of its
rule, where the queue is one the job may name, the record lies where it may be accessed, and, for a
release, every access of the stream is performed. A full queue is answered with NONE. A reservation waits
where a later stream of its core, in the order C, L, M, V, S, has had its ticket in the same cycle; that the
two cycles of a nanosecond are told apart by that order is the model's choice of log 9. A `WQPOP` before
whose turn no record stands ready completes with NONE and ERR where its queue is in ERROR and empty, with
NONE where it has `.NB`, and otherwise waits in the order in which such `WQPOP`s began. A launch queue left
empty ends its privileged graph. -/
def Obligations.WorkQueueResults : Prop :=
  ∀ (h : Head) (nb : Bool) (d : Dst) (a b c : Src) (n ad held : Nat) (l : List Loc)
    (t : BitVec 32) (r : BitVec 512) (q' : WQ) (s s1 u : State),
    let die := dieOf s1.core
    let q := s1.wqAt die n
    let open_ := q.state ≠ .free ∧ q.ringparse = false
    let full := qStatus true false 0
    let rec_ : BitVec 512 := .ofNat 512 (ofBytes (s1.load s1.stream l))
    let e := s1.external
    let resv (second : Bool) := e.putQueue die n { q with
      ents := q.ents ++ [.resv e.inst.uid 0],
      took := q.took.set none s1.core (some ⟨s1.mtime, second, s1.stream⟩) }
    let first_ : Prop := ∀ t, q.took.get none s1.core = some t → t.time ≠ s1.mtime
    let after_ (b : Bool) : Prop := ∃ t, q.took.get none s1.core = some t ∧ t.time = s1.mtime ∧ t.second = b ∧
      streams.idxOf t.st ≤ streams.idxOf s1.stream
    let before (b : Bool) : Prop := ∃ t, q.took.get none s1.core = some t ∧ t.time = s1.mtime ∧ t.second = b ∧
      streams.idxOf s1.stream < streams.idxOf t.st
    let pushed (second : Bool) := ((resv second).commitAt die n q.ents.length rec_ false).result d
      (qStatus false false q.next)
    let taken (second : Bool) := (resv second).result d (qStatus false false q.next)
    let me := (s1.core, s1.inst.uid, s1.stream)
    let leave (s : State) : State :=
      s.setWq die n { s.wqAt die n with pops := (s.wqAt die n).pops.filter (· != me) }
    let named (i : Instr) : Prop := s.ready i s1 ∧ s1.queueOpd h a = .ok n
    let gives (i : Instr) (e : State) : Prop := exec i s = s.completes i e
    let quiet := s1.str.performed = true
    let ended (s : State) : State := s.endIfDone die n
    let pop : Instr := .wqpop h nb d a b
    let first : Prop := q.pops.takeWhile (· != me) = []
    let dry : Prop := ¬first ∨ s1.popQueue die n = none
    (named (.wqrsv h d a) → open_ →
      (q.full = true → gives (.wqrsv h d a) (s1.result d full)) ∧
      (q.full = false → first_ ∨ after_ false → gives (.wqrsv h d a) (taken false)) ∧
      (q.full = false → before false ∨ after_ true → gives (.wqrsv h d a) (taken true)) ∧
      (q.full = false → before true → exec (.wqrsv h d a) s = .next s1)) ∧
    (named (.wqpush h d a b) → open_ → quiet → s1.recordAt .read h b = .ok (ad, l) →
      (q.full = true → gives (.wqpush h d a b) (s1.result d full)) ∧
      (q.full = false → first_ ∨ after_ false → gives (.wqpush h d a b) (pushed false)) ∧
      (q.full = false → before false ∨ after_ true → gives (.wqpush h d a b) (pushed true)) ∧
      (q.full = false → before true → exec (.wqpush h d a b) s = .next s1)) ∧
    (named (.wqcmt h d a b c) → quiet → s1.recordAt .read h c = .ok (ad, l) →
      t = (s1.val h .n64 b).setWidth 32 → q.ents[(t - q.head).toNat]? = some (.resv s1.inst.uid held) →
      gives (.wqcmt h d a b c) ((ended (s1.commitAt die n (t - q.head).toNat rec_ false)).result d
        (qStatus false false t))) ∧
    (named pop → s1.recordAt .write h b = .ok (ad, l) → 16 ≤ n → q.state ≠ .free →
      q.dead.contains me = false → s1.free_ l = true → s1.unheld l = true →
      (first → s1.popQueue die n = some (t, r, u) →
        gives pop (let v := (leave u).external
          let v := v.pokes (some v.me) (l.zip (toBytes 64 r.toNat))
          (v.count v.core 0x0D 1).result d (qStatus false false t))) ∧
      (dry → q.state = .error → q.ents = [] → gives pop ((leave s1).result d (qStatus true true 0))) ∧
      (dry → (q.state ≠ .error ∨ q.ents ≠ []) → nb = true →
        gives pop ((leave s1).result d (qStatus true false 0))) ∧
      (dry → (q.state ≠ .error ∨ q.ents ≠ []) → nb = false → exec pop s =
        .next (if q.pops.contains me then s1 else s1.setWq die n { q with pops := q.pops ++ [me] }))) ∧
    (named (.wqstat h d a) → gives (.wqstat h d a) (s1.result d q.stat)) ∧
    (named (.wqctlCreate h d a b) → quiet → s1.recordAt .read h b = .ok (ad, l) →
      q.create n rec_ = some q' → gives (.wqctlCreate h d a b)
        ((ended ((s1.putQueue die n q').freshQueue (dieOf (s1.putQueue die n q').core) n)).result d q.stat)) ∧
    (named (.wqctlRestart h d a b) → quiet → s1.recordAt .read h b = .ok (ad, l) → q.restart rec_ = some q' →
      gives (.wqctlRestart h d a b) ((ended (s1.putQueue die n q')).result d q.stat)) ∧
    (named (.wqctlDestroy h d a b) → quiet → q.destroy = some q' →
      gives (.wqctlDestroy h d a b) ((ended (s1.putQueue die n q')).result d q.stat)) ∧
    (named (.wqctlRead h d a b) → quiet → s1.recordAt .write h b = .ok (ad, l) →
      gives (.wqctlRead h d a b) ((s1.pokes (some s1.me) (l.zip q.image)).result d q.stat))

/-- R157, R174 to R176, R303 and log 70: `SPAWN` and the transaction-barrier instructions complete. `SPAWN` gives
the node number or the code of its submission, while dispatch works on the die, and on the spawning node's
where the record names a child of it; `TBARM` arms a tbar that is neither armed nor LATE; `TBWAIT` gives the
phase once it differs from the operand; `TBARRIVE` counts, an ordered one in its turn. That `TBARM` waits for the
stores to its tbar that any stream of the core holds, and that an ordered `TBARRIVE` on an idle tbar does not
stall, is the model's choice of log 70. -/
def Obligations.SpawnAndBarrierResults : Prop :=
  ∀ (h : Head) (ord nudge : Bool) (d : Dst) (a b c : Src) (o : Nat) (l : List Loc) (t : Trap) (x : Word)
    (s s1 u : State),
    let spawn : Instr := .spawn h d a
    let arm : Instr := .tbarm h ord nudge d a b c
    let wait : Instr := .tbwait h d a b
    let arrive : Instr := .tbarrive h a b c
    let ad := s1.val h .i64 a
    let tb := s1.tbGet s1.core s1.inst o
    let mid : Tb := { tb with arrivals := (s1.val h .n64 b).toNat % 2 ^ 32, sectors := (s1.val h .n64 c).toNat,
                              next := 0, ord := ord, nudge := nudge, armed := true }
    let k := (s1.val h .n64 b).toNat % 2 ^ 24
    let n := (s1.val h .n64 c).toNat
    let places := (List.range 16).map fun k => Loc.spad (o + k)
    let onTbar (i : Instr) : Prop := s.ready i s1 ∧ s1.tbAddr ad = .ok o ∧
      s1.free_ places = true ∧ s1.unheld places = true
    let quiet : Prop := s1.str.performed = true
    let r : BitVec 512 := .ofNat 512 (ofBytes (s1.load s1.stream l))
    (s.ready spawn s1 → ad.toNat % 64 = 0 → quiet → s1.die.stopped = false →
      s1.at_ .read ad.toNat 64 = .ok l →
      (lrChild r = true → (s1.dieAt s1.inst.launch.die).stopped = false) → s1.spawn (some r) = .ok (x, u) →
      exec spawn s = s.completes spawn (u.result d x)) ∧
    (s.ready spawn s1 → ad.toNat % 64 = 0 → quiet → s1.die.stopped = false →
      s1.at_ .read ad.toNat 64 = .error t → t.cause ≠ .eccUncorr → exec spawn s = s.completes spawn
        (s1.result d (.ofNat 64 (2 ^ 63 + 1)))) ∧
    let unstored : Prop := ∀ st, ∀ rel u els, EqItem.store rel u els ∈ (s1.inst.streams.get st).eq →
      ∀ e ∈ els, ∀ b ∈ e, b.1 ∉ places
    (onTbar arm → tb.late = false → tb.armed = false → quiet → unstored →
      s1.tbPut s1.core s1.inst.uid o mid mid.settle = .ok u →
      exec arm s = s.completes arm (u.result d (.ofNat 64 tb.phase))) ∧
    (onTbar wait → (tb.late = false ∨ s1.str.tbwait = true) → tb.phase ≠ (s1.val h .n64 b).toNat % 16 →
      exec wait s = s.completes wait (s1.result d (.ofNat 64 tb.phase))) ∧
    (onTbar arrive → ¬(tb.armed = true ∧ tb.ord = true ∧ tb.next < k) →
      s1.tbPut s1.core s1.inst.uid o tb (tb.arrive n (if tb.ord then some k else none)) = .ok u →
      exec arrive s = s.completes arrive u)

/-- R180, R181, R183, R185: the vector integer instructions complete: each active lane is the value of its
rule, taken modulo 2ʷ or saturated; the other lanes keep the old pattern. It holds for every source form
whose active lanes can be read. -/
def Obligations.VectorIntegerResults : Prop :=
  ∀ (h : Head) (m : Fin 8) (ty : Ty) (d : Dst) (a b c : VSrc) (x y z : Nat → Nat × Flags) (s s1 : State),
    let on := s1.act m ty.width
    let w := ty.width
    let n (v : Int) : Nat := (v % 2 ^ w).toNat
    let sh (v : Int) : Nat := (v % w).toNat
    let bit2 (f : Word → Word → Word) (u v : Int) : Int := (f (.ofInt 64 u) (.ofInt 64 v)).toInt
    let two (i : Instr) (r : Int → Int → Nat × Flags) : Prop :=
      s.ready i s1 → s1.reads on h ty a x → s1.reads on h ty b y →
      exec i s = s.completes i (s1.lanesDone on ty d fun k =>
        ((r (ty.int (x k).1) (ty.int (y k).1)).1,
          (x k).2 ||| (y k).2 ||| (r (ty.int (x k).1) (ty.int (y k).1)).2))
    let one (i : Instr) (r : Int → Nat × Flags) : Prop :=
      s.ready i s1 → s1.reads on h ty a x →
      exec i s = s.completes i (s1.lanesDone on ty d fun k =>
        ((r (ty.int (x k).1)).1, (x k).2 ||| (r (ty.int (x k).1)).2))
    two (.vadd h m ty d a b) (fun u v => (n (u + v), 0)) ∧ two (.vsub h m ty d a b) (fun u v => (n (u - v), 0)) ∧
    two (.vmul h m ty d a b) (fun u v => (n (u * v), 0)) ∧
    two (.vmulh h m ty d a b) (fun u v => (n (u * v / 2 ^ w), 0)) ∧
    two (.vadds h m ty d a b) (fun u v => ty.satInt (u + v)) ∧
    two (.vsubs h m ty d a b) (fun u v => ty.satInt (u - v)) ∧
    two (.vmin h m ty d a b) (fun u v => (n (min u v), 0)) ∧
    two (.vmax h m ty d a b) (fun u v => (n (max u v), 0)) ∧
    two (.vand h m ty d a b) (fun u v => (n (bit2 (· &&& ·) u v), 0)) ∧
    two (.vor h m ty d a b) (fun u v => (n (bit2 (· ||| ·) u v), 0)) ∧
    two (.vxor h m ty d a b) (fun u v => (n (bit2 (· ^^^ ·) u v), 0)) ∧
    two (.vshl h m ty d a b) (fun u v => (n (u * 2 ^ sh v), 0)) ∧
    two (.vshr h m ty d a b) (fun u v => (n (u / 2 ^ sh v), 0)) ∧
    one (.vabs h m ty d a) (fun u => ty.satInt u.natAbs) ∧ one (.vmov h m ty d a) (fun u => (n u, 0)) ∧
    (s.ready (.vmad h m ty d a b c) s1 → s1.reads on h ty a x → s1.reads on h ty b y → s1.reads on h ty c z →
      exec (.vmad h m ty d a b c) s = s.completes (.vmad h m ty d a b c) (s1.lanesDone on ty d fun k =>
        (n (ty.int (x k).1 * ty.int (y k).1 + ty.int (z k).1), (x k).2 ||| (y k).2 ||| (z k).2)))

/-- R186, R187: the vector float instructions complete: each active lane is the operation on the decoded
values, rounded once to the type under `cr.RND`, with its flags. -/
def Obligations.VectorFloatResults : Prop :=
  ∀ (h : Head) (m : Fin 8) (ty : Ty) (d : Dst) (a b c : VSrc) (x y z : Nat → Nat × Flags) (s s1 : State),
    let on := s1.act m ty.width
    let md := s1.str.rnd
    let v (p : Nat × Flags) : Fl := ty.decode p.1
    let one_ : Fl := .fin false 1 0
    let rounded (r : Fl × Flags) : Nat × Flags := ((ty.rndFl md r.1).1, (ty.rndFl md r.1).2 ||| r.2)
    let two (i : Instr) (r : Fl → Fl → Nat × Flags) : Prop :=
      s.ready i s1 → s1.reads on h ty a x → s1.reads on h ty b y →
      exec i s = s.completes i (s1.lanesDone on ty d fun k =>
        ((r (v (x k)) (v (y k))).1, (x k).2 ||| (y k).2 ||| (r (v (x k)) (v (y k))).2))
    let one (i : Instr) (r : Fl → Nat × Flags) : Prop :=
      s.ready i s1 → s1.reads on h ty a x →
      exec i s = s.completes i (s1.lanesDone on ty d fun k => ((r (v (x k))).1, (x k).2 ||| (r (v (x k))).2))
    two (.vfadd h m ty d a b) (fun u t => rounded (Fl.add md u t)) ∧
    two (.vfsub h m ty d a b) (fun u t => rounded (Fl.add md u t.neg)) ∧
    two (.vfmul h m ty d a b) (fun u t => rounded (Fl.mul u t)) ∧
    two (.vfdiv h m ty d a b) (fun u t => ty.fdiv md u t) ∧
    two (.vfmin h m ty d a b) (fun u t => rounded (Fl.pick false u t)) ∧
    two (.vfmax h m ty d a b) (fun u t => rounded (Fl.pick true u t)) ∧
    one (.vfsqrt h m ty d a) (ty.fsqrt md) ∧ one (.vfrcp h m ty d a) (ty.fdiv md one_) ∧
    one (.vfexp2 h m ty d a) (ty.fexp2 md) ∧
    one (.vfabs h m ty d a) (signOnly ty fun _ => false) ∧ one (.vfneg h m ty d a) (signOnly ty (!·)) ∧
    (s.ready (.vfma h m ty d a b c) s1 → s1.reads on h ty a x → s1.reads on h ty b y → s1.reads on h ty c z →
      exec (.vfma h m ty d a b c) s = s.completes (.vfma h m ty d a b c) (s1.lanesDone on ty d fun k =>
        ((rounded (Fl.fma md (v (x k)) (v (y k)) (v (z k)))).1,
          (rounded (Fl.fma md (v (x k)) (v (y k)) (v (z k)))).2 ||| (x k).2 ||| (y k).2 ||| (z k).2)))

/-- R192 to R196, R190 and logs 15 and 67: conversions, permutes and `VSEL` complete; a conversion's active lanes
that a source lane fills, a permute's active lanes by the place in the two tables its rule names. That
permutes and `VSEL` set the flags of the expansion of what they read, and that `VSEL` moves a signalling NaN
without one, is the model's choice of log 67; what lanes a literal of `VPACK` and `VUNPACK` has, that of log
15. -/
def Obligations.VectorMoveResults : Prop :=
  ∀ (h : Head) (m : Fin 8) (ty sty : Ty) (pol : Option Pol) (part16 : Fin 16) (part8 bank : Fin 8) (kind : Fin 4)
    (hi : Bool) (d : Dst) (a b c : VSrc) (g : Src) (x y z r : Nat → Nat × Flags) (s s1 : State),
    let on := s1.act m ty.width
    let lanes := ty.lanes
    let wide := Ty.intOf ty.signed (2 * ty.width)
    let half := Ty.intOf ty.signed (ty.width / 2)
    let ity := Ty.intOf true ty.width
    let src (t : Nat) := cvtLane ty.width sty.width part16 t
    let per := cbxPer kind
    let one := if hi then 1 else 0
    let k := (s1.val h .i64 g).toNat
    let tabs (b : VSrc) : Prop := (∀ i, i < lanes → s1.tableLane h m ty 0 a i = .ok (x i)) ∧
      ∀ i, i < lanes → s1.tableLane h m ty 1 b i = .ok (y i)
    let at_ (j : Nat) : Nat := if j < lanes then (x j).1 else if j < 2 * lanes then (y (j - lanes)).1 else 0
    let tf : Flags := (List.range lanes).foldr (fun i f => (x i).2 ||| (y i).2 ||| f) 0
    let perm (i : Instr) (b : VSrc) (pick : Nat → Nat) : Prop := s.ready i s1 → tabs b →
      exec i s = s.completes i
        { (s1.lanesDone on ty d fun t => (at_ (pick t), 0)).addFlags tf with free := s1.free + 512 }
    (s.ready (.vcvt h m ty sty pol part16 d a) s1 →
      (∀ t, t < lanes → on t = true → ∀ j, src t = some j → s1.vlane h sty a j = .ok (x t) ∧
        ty.convertTy sty s1.str.rnd (s1.policy pol) (x t).1 = some (r t)) →
      exec (.vcvt h m ty sty pol part16 d a) s = s.completes (.vcvt h m ty sty pol part16 d a)
        (s1.lanesDone (fun t => on t && (src t).isSome) ty d fun t => ((r t).1, (x t).2 ||| (r t).2))) ∧
    (s.ready (.vcbx h m ty bank kind part8 d a) s1 →
      (∀ i, i < lanes → on i = true → s1.vlane h .n8 a (part8 * (lanes / per) + i / per) = .ok (x i) ∧
        (s1.inst.entryCb bank (x i).1).ok kind = true) →
      exec (.vcbx h m ty bank kind part8 d a) s = s.completes (.vcbx h m ty bank kind part8 d a)
        (s1.lanesDone on ty d fun i => cbxLane ty kind (s1.inst.entryCb bank (x i).1) s1.str.rnd (i % per))) ∧
    (s.ready (.vpack h m ty d a b) s1 →
      (∀ i, i < lanes → on i = true →
        (if i < lanes / 2 then s1.vlane h wide a i else s1.vlane h wide b (i - lanes / 2)) = .ok (x i)) →
      exec (.vpack h m ty d a b) s = s.completes (.vpack h m ty d a b) (s1.lanesDone on ty d fun i =>
        ((ty.satInt (wide.int (x i).1)).1, (x i).2 ||| (ty.satInt (wide.int (x i).1)).2))) ∧
    (s.ready (.vunpack h m ty hi d a) s1 →
      (∀ i, i < lanes → on i = true → s1.vlane h half a (one * lanes + i) = .ok (x i)) →
      exec (.vunpack h m ty hi d a) s = s.completes (.vunpack h m ty hi d a)
        (s1.lanesDone on ty d fun i => (ty.wrap (half.int (x i).1), (x i).2))) ∧
    (s.ready (.vldexp h m ty d a b) s1 → s1.reads on h ty a x →
      (∀ i, i < lanes → on i = true → s1.vlane h ity b i = .ok (y i)) →
      exec (.vldexp h m ty d a b) s = s.completes (.vldexp h m ty d a b) (s1.lanesDone on ty d fun i =>
        ((ldexpF ty s1.str.rnd (ty.decode (x i).1) (ity.int (y i).1)).1,
          (x i).2 ||| (y i).2 ||| (ldexpF ty s1.str.rnd (ty.decode (x i).1) (ity.int (y i).1)).2))) ∧
    (s.ready (.vbcast h m ty d g) s1 → exec (.vbcast h m ty d g) s = s.completes (.vbcast h m ty d g)
      (s1.lanesDone on ty d fun _ => (s1.bcast h ty g, 0))) ∧
    (s.ready (.vsel h m ty d a b) s1 →
      (∀ i, i < lanes → s1.vlane h ty (if laneOn (s1.mask m) ty.width i then a else b) i = .ok (x i)) →
      exec (.vsel h m ty d a b) s = s.completes (.vsel h m ty d a b)
        (s1.lanesDone (fun _ => true) ty d x)) ∧
    (s.ready (.vshuf h m ty d a b c) s1 → tabs c → s1.reads on h ty b z →
      exec (.vshuf h m ty d a b c) s = s.completes (.vshuf h m ty d a b c)
        { (s1.lanesDone on ty d fun t => (at_ ((z t).1 % (2 * lanes)), (z t).2)).addFlags tf
          with free := s1.free + 512 }) ∧
    perm (.vslide h m ty d a b g) b (fun t => t + k) ∧
    perm (.vzip h m ty hi d a b) b (fun t => one * (lanes / 2) + t / 2 + t % 2 * lanes) ∧
    perm (.vunzip h m ty hi d a b) b (fun t => 2 * t + one)

/-- R197 to R200 and logs 38 and 68: the reductions and `VSCAN` complete where the active lanes of A and lane 0
of B can be read. An integer sum is the exact sum of the active lanes and lane 0 of B modulo 2ʷ, an integer maximum
or minimum one of those values that none passes, an integer scan the running sums; of float types the
results are the tree of R198, R199's extreme and the running sums of R200. That an inactive lane of a float
sum is the zero of R198's pseudocode, also where its sentence says otherwise, is the model's choice of log 68;
that lane 0 of B is read where lane 0 is inactive, that of log 38. -/
def Obligations.VectorReductionResults : Prop :=
  ∀ (h : Head) (m : Fin 8) (ty : Ty) (d : Dst) (a b : VSrc) (x : Nat → Nat × Flags) (y : Nat × Flags)
    (s s1 : State),
    let on := s1.act m ty.width
    let md := s1.str.rnd
    let lanes := List.range ty.lanes
    let active := lanes.filter on
    let u (k : Nat) : Int := ty.int (x k).1
    let y0 : Int := ty.int y.1
    let n (v : Int) : Nat := (v % 2 ^ ty.width).toNat
    let fl : Flags := lanes.foldr (fun k f => (if on k then (x k).2 else 0) ||| f) y.2
    let first (z : Nat) (f : Flags) : State := s1.lane0 d z (fl ||| f)
    let can (i : Instr) : Prop := s.ready i s1 ∧ s1.reads on h ty a x ∧ s1.vlane h ty b 0 = .ok y
    let sum : Instr := .vredsum h m ty d a b
    let hi : Instr := .vredmax h m ty d a b
    let lo : Instr := .vredmin h m ty d a b
    let scn : Instr := .vscan h m ty d a b
    let among (z : Nat) : Prop := z = y.1 ∨ ∃ k ∈ active, z = (x k).1
    let t := tree md 8 (lanes.map fun k => if on k then Acc2.of ty (x k).1 else .none ty)
    let r := Acc2.add md (t.1.headD (.none ty)) (.of ty y.1)
    let q := scan ty md (fun i => lane (s1.vold d) i ty.width) 0 (.of ty y.1)
      (lanes.map fun k => if on k then some (x k).1 else none)
    let e (g : Bool) := extreme ty g y.1 (active.map fun k => (x k).1)
    (can sum → ty.sfn = true →
      exec sum s = s.completes sum (first (n ((active.map u).sum + y0)) 0)) ∧
    (can sum → ty.vfl = true →
      exec sum s = s.completes sum (first (r.1.out ty md).1 (t.2 ||| r.2 ||| (r.1.out ty md).2))) ∧
    (can hi → ty.sfn = true → ∃ z, among z ∧ y0 ≤ ty.int z ∧ (∀ k ∈ active, u k ≤ ty.int z) ∧
      exec hi s = s.completes hi (first z 0)) ∧
    (can lo → ty.sfn = true → ∃ z, among z ∧ ty.int z ≤ y0 ∧ (∀ k ∈ active, ty.int z ≤ u k) ∧
      exec lo s = s.completes lo (first z 0)) ∧
    (can hi → ty.vfl = true → exec hi s = s.completes hi (first (e true).1 (e true).2)) ∧
    (can lo → ty.vfl = true → exec lo s = s.completes lo (first (e false).1 (e false).2)) ∧
    (can scn → ty.sfn = true → exec scn s = s.completes scn ((s1.vresult d (ofLanes ty.width
      (lanes.map fun i => if on i then n (y0 + ((active.filter (· ≤ i)).map u).sum)
        else lane (s1.vold d) i ty.width))).addFlags fl)) ∧
    (can scn → ty.vfl = true →
      exec scn s = s.completes scn ((s1.vresult d (ofLanes ty.width q.1)).addFlags (fl ||| q.2)))

/-- R188 to R191, R201 and log 67: the instructions of masks complete: a compare writes the bits of its active lanes
and keeps the others, the bitwise ones combine whole masks, `VTOPK` marks the active lanes that fewer
than K active lanes come before, `VMPOP` counts and `VIOTA` numbers the set bits. That `VTOPK` sets the flags
of the expansion of what it reads is the model's choice of log 67. -/
def Obligations.VectorMaskResults : Prop :=
  ∀ (h : Head) (m : Fin 8) (c : Cond) (ty : Ty) (d : Dst) (md : MDst) (a b : VSrc) (g : Src) (ma mb : MSrc)
    (x y : Nat → Nat × Flags) (s s1 : State),
    let on := s1.act m ty.width
    let lanes := List.range ty.lanes
    let active := lanes.filter on
    let u (k : Nat) : Int := ty.int (x k).1
    let v (k : Nat) : Int := ty.int (y k).1
    let holds (k : Nat) : Bool := match c with
      | .eq => u k == v k | .ne => u k != v k | .lt => decide (u k < v k) | .ge => decide (v k ≤ u k)
      | .le => decide (u k ≤ v k) | .gt => decide (v k < u k)
    let bits (r : Nat → Bool) : State := s1.mresult md
      (maskOver (s1.mold md) (lanes.map fun k => if on k then r k else (s1.mold md).getLsbD k))
    let flags (f : Nat → Flags) : Flags := lanes.foldr (fun k r => (if on k then f k else 0) ||| r) 0
    let p := s1.msrc ma
    let q := s1.msrc mb
    let cmp : Instr := .vcmp h m c ty md a b
    let top : Instr := .vtopk h m ty md a g
    let k := (s1.val h .i64 g).toNat
    let key (i : Nat) : Int := topKey ty (x i).1
    let before (i : Nat) : List Nat := active.filter fun j => decide (key i < key j ∨ (key j = key i ∧ j < i))
    let set (n : Nat) : Nat := ((List.range n).filter fun i => p.getLsbD i).length
    let gives (i : Instr) (e : State) : Prop := s.ready i s1 → exec i s = s.completes i e
    (s1.reads on h ty a x → s1.reads on h ty b y → ty.isInt = true →
      gives cmp ((bits holds).addFlags (flags fun k => (x k).2 ||| (y k).2))) ∧
    (s1.reads on h ty a x → s1.reads on h ty b y → ty.isInt = false →
      gives cmp ((bits fun k => (cmpF c ty (x k).1 (y k).1).1).addFlags
        (flags fun k => (x k).2 ||| (y k).2 ||| (cmpF c ty (x k).1 (y k).1).2))) ∧
    gives (.vmskAnd h md ma mb) (s1.mresult md (p &&& q)) ∧ gives (.vmskOr h md ma mb) (s1.mresult md (p ||| q)) ∧
    gives (.vmskXor h md ma mb) (s1.mresult md (p ^^^ q)) ∧
    gives (.vmskAndn h md ma mb) (s1.mresult md (p &&& ~~~q)) ∧ gives (.vmskNot h md ma) (s1.mresult md (~~~p)) ∧
    (s1.reads on h ty a x → gives top ((s1.mresult md (maskOver (s1.mold md)
      (lanes.map fun i => on i && decide ((before i).length < k)))).addFlags (flags fun k => (x k).2))) ∧
    gives (.vmpop h ty d ma) (s1.result d (.ofNat 64 (set ty.lanes))) ∧
    gives (.viota h m ty d ma) (s1.lanesDone on ty d fun i => (set i % 2 ^ ty.width, 0))

/-- R202, R203: the vector loads and stores complete where every active element is aligned and may be
accessed: unit stride, any stride, and by index. A load writes the active lanes; a store of V puts its
elements into its engine queue in lane order, 4-bit elements by the byte. -/
def Obligations.VectorMemoryResults : Prop :=
  ∀ (h : Head) (m k : Fin 8) (ty : Ty) (d : Dst) (a b : Src) (v c : VSrc) (ix y : Nat → Nat × Flags)
    (p : Nat → List Loc) (s s1 : State),
    let on := s1.act m ty.width
    let n := max 1 (ty.width / 8)
    let base := (s1.val h .i64 a).toNat
    let unit (i : Nat) : Nat := (s1.addr h a b + (if ty.width = 4 then i / 2 else i * n)) % 2 ^ 64
    let strided (i : Nat) : Nat := (((base : Int) + i * (s1.val h .i64 b).toInt) % 2 ^ 64).toNat
    let indexed (i : Nat) : Nat := (base + (ix i).1 * 2 ^ k.val) % 2 ^ 64
    let can (i : Instr) (acc : Acc) (ad : Nat → Nat) : Prop := s.ready i s1 ∧
      ∀ t, t < ty.lanes → on t = true → ad t % n = 0 ∧ s1.at_ acc (ad t) n = .ok (p t)
    let whole (t : Nat) : Nat := ofBytes (s1.load s1.stream (p t))
    let loaded : State := s1.lanesDone on ty d fun t =>
      (if ty.width = 4 then whole t / 16 ^ (t % 2) % 16 else whole t, 0)
    let els : List (List (Loc × Byte)) :=
      if ty.width = 4 then (((List.range ty.lanes).filter on).filter fun t => t % 2 == 0).map fun t =>
        (p t).zip (toBytes 1 ((y t).1 + 16 * (y (t + 1)).1))
      else ((List.range ty.lanes).filter on).map fun t => (p t).zip (toBytes n (y t).1)
    let ld (i : Instr) (ad : Nat → Nat) : Prop := can i .read ad → exec i s = s.completes i loaded
    let st (i : Instr) (ad : Nat → Nat) : Prop := can i .write ad → s1.stream = .V → s1.str.stores < 16 →
      s1.reads on h ty c y → exec i s = s.completes i (s1.held els)
    ld (.vld h m ty d a b) unit ∧ ld (.vlds h m ty d a b) strided ∧
      (s1.reads on h ty v ix → ld (.vgath h m ty k d a v) indexed) ∧
      st (.vst h m ty a b c) unit ∧ st (.vsts h m ty a b c) strided ∧
      (s1.reads on h ty v ix → st (.vscat h m ty k a v c) indexed)

/-- R65 to R68, R205, R302: a `VLDSH` completes where every active lane's header is good, the codebook it
names holds no error, its code has a value and the policy gives it a pattern. R206: so does a `VSTSH` of V
whose sheaves may be written, each with the header and codes of R74 to R78. -/
def Obligations.SheafMemoryResults : Prop :=
  ∀ (h : Head) (m j0 bank : Fin 8) (ty : Ty) (pol : Option Pol) (sel aux : Fin 16) (w8 half : Bool) (d : Dst)
    (a : Src) (c : VSrc) (hl cl : Nat → List Loc) (v : Nat → Fl) (r : Nat → Nat × Flags)
    (o : Nat → List (List (Loc × Byte)) × Flags) (s s1 : State),
    let ld : Instr := .vldsh h m ty w8 j0 pol d a
    let st : Instr := .vstsh h m ty sel aux w8 j0 bank half a c
    let ad := (s1.val h .i64 a).toNat
    let on := s1.act m ty.width
    let value (l : List Loc) : Nat := ofBytes (s1.load s1.stream l)
    let n := ty.lanes / 32
    (s.ready ld s1 → ad % 16 = 0 →
      (∀ i, i < ty.lanes → on i = true →
        let j := j0 + i / 32
        let hd := Hdr.of (value (hl i))
        s1.at_ .read ((ad + 2 * j) % 2 ^ 64) 2 = .ok (hl i) ∧ hd.ok = true ∧
          s1.at_ .read ((ad + codeAt w8 j (i % 32)) % 2 ^ 64) 1 = .ok (cl i) ∧
          s1.inst.sound (if hd.sel == 3 then [.cb (hd.aux % 8)] else []) = .ok () ∧
          elemOf s1.inst.cbAt w8 hd.sel hd.aux (codeOf w8 (i % 32) (value (cl i))) = .val (v i) ∧
          ty.convert s1.str.rnd (s1.policy pol) false ((v i).scale ((hd.scale : Int) - 127)) = some (r i)) →
      exec ld s = s.completes ld (s1.lanesDone on ty d r)) ∧
    (s.ready st s1 → ad % 16 = 0 → s1.stream = .V → s1.str.stores < 16 →
      (∀ k, k < n → s1.sheafOut h m ty ⟨w8, sel, aux, bank, half⟩ c ad (j0 + k) (32 * k) = .ok (o k)) →
      exec st s = s.completes st ((State.held { s1 with free := s1.free + 256 }
        ((List.range n).map fun k => (o k).1).flatten).addFlags
          ((List.range n).foldl (fun f k => f ||| (o k).2) 0)))

/-- R213 to R215, R302 and log 8: the furrow instructions complete. `FLD` and `FST` move the 128 bytes of an
image, an `FST` by its 16 words, which of another stream than C enter its engine queue; that C performs
them at once is the model's choice of log 8. `FSET` and `FPATCH` replace exactly the bits of their field
where the value is in range, and where the patch guard permits it; any other value raises `PATCH_RANGE`
with the value in `pcr.FADDR`. A furrow slot that is written holds no error any longer. -/
def Obligations.FurrowResults : Prop :=
  ∀ (h : Head) (fd : FField) (f : Fin 64) (a b : Src) (l : List Loc) (s s1 : State),
    let ad := s1.addr h a b
    let old := s1.inst.store.fur.get 0 f
    let slot (w : BitVec 1024) : State :=
      s1.setInst { s1.inst with store := { s1.inst.store with fur := s1.inst.store.fur.set 0 f w },
                                bad := s1.inst.bad.filter (·.1 != .fur f) }
    let image := l.zip (toBytes 128 old.toNat)
    let words := (List.range 16).map fun k => (image.drop (8 * k)).take 8
    let lo : Nat := match fd with
      | .bound k => 16 * k | .base w => 128 + 256 * w | .stride w k => 192 + 256 * w + 32 * k
      | .attr w => 96 + 8 * w | .target w => 101 + 8 * w | .oper => 120 | .bmax k => 896 + 16 * k
      | .wmask => 992 | .patchen => 1000
    let n : Nat := match fd with
      | .bound _ => 16 | .base _ => 64 | .stride _ _ => 32 | .attr _ => 8 | .target _ => 3 | .oper => 8
      | .bmax _ => 16 | .wmask => 8 | .patchen => 12
    let range (v : Word) : Prop := match fd with
      | .base _ => True | .stride _ _ => -2 ^ 31 ≤ v.toInt ∧ v.toInt < 2 ^ 31 | _ => v.toNat < 2 ^ n
    let on (k : Nat) : Prop := old.getLsbD (1000 + k) = true
    let guard (v : Word) : Prop := match fd with
      | .bound k => on k ∧ v.toNat ≤ fld old (896 + 16 * k) 16
      | .base w => on (6 + w) ∧ baseOk (fKind old w) v.toInt = true
      | .target w => on (9 + w) ∧ v.toNat ≤ 7 ∧ old.getLsbD (992 + v.toNat) = true
      | _ => False
    let moves (acc : Acc) (i : Instr) : Prop :=
      s.ready i s1 ∧ ad % 16 = 0 ∧ s1.at_ acc ad 128 = .ok l ∧ s1.free_ l = true
    let sets (i : Instr) (v : Word) (may : Prop) : Prop :=
      (may → ∃ w, exec i s = s.completes i (slot w) ∧ ∀ k, k < 1024 →
        w.getLsbD k = if lo ≤ k ∧ k < lo + n then v.getLsbD (k - lo) else old.getLsbD k) ∧
      (¬may → exec i s = .next (s1.raise s1.stream ⟨.patchRange, v⟩))
    let v := s1.val h .i64 a
    let w : Word := .ofNat 64 (ofBytes (s1.load s1.stream l))
    (moves .read (.fld h f a b) → exec (.fld h f a b) s = s.completes (.fld h f a b)
      (slot (.ofNat 1024 (ofBytes (s1.load s1.stream l))))) ∧
    (moves .write (.fst h a b f) → s1.stream = .C → exec (.fst h a b f) s = s.completes (.fst h a b f)
      (words.foldl (fun e x => e.pokes (some e.me) x) s1)) ∧
    (moves .write (.fst h a b f) → s1.stream ≠ .C → s1.str.stores < 16 →
      exec (.fst h a b f) s = s.completes (.fst h a b f) (s1.held words)) ∧
    (s.ready (.fset h fd f a) s1 → sets (.fset h fd f a) v (range v)) ∧
    (s.ready (.fpatch h fd f a) s1 → sets (.fpatch h fd f a) v (guard v)) ∧
    (s.ready (.fpatchMem h fd f a b) s1 → (∃ off, place ad = .local_ off) → ad % 8 = 0 →
      s1.at_ .read ad 8 = .ok l → s1.free_ l = true → sets (.fpatchMem h fd f a b) w (guard w))

/-- R217, R218, R231, R320: `WINSET` of length 0 makes its window invalid, of a target that may be bound makes
it that target's, and of any other raises `REMOTE`; `WINQ` and `CPYQ` give the status of their rules. While
no port is up, a `WINSET` of an export of another module that has made exports known cannot be checked and
stalls (log 57). -/
def Obligations.WindowAndCopyStatusResults : Prop :=
  ∀ (h : Head) (k : Fin 8) (sel : Bool) (d : Dst) (a b c : Src) (r : RTarget) (s s1 : State),
    let t := s1.val h .n64 a
    let base := (s1.val h .n64 b).toNat
    let len := (s1.val h .n64 c).toNat
    let i1 := s1.inst
    let win (x : Option Window) : State := s1.setInst { i1 with win := i1.win.set none k x }
    let set : Instr := .winset h k a b c
    let cur := i1.win.get none k
    let status (x : Window) : Nat := 2 ^ 63 + x.len % 2 ^ 48 + match x.tgt with
      | .core _ _ => 2 ^ 61
      | .export_ m n => 2 ^ 62 + if ((s1.exportOf m n).map (·.writable)).getD false then 2 ^ 61 else 0
    let tag : BitVec 6 := (s1.val h .i64 a).setWidth 6
    let tagged := ((i1.shq ++ i1.timed).filter (·.tag == tag)).length
    let there : Prop := ∀ m, exportModule t = some m → s1.reached m = true
    (s.ready set s1 → len = 0 → exec set s = s.completes set (win none)) ∧
    (s.ready set s1 → len ≠ 0 → there → s1.bind_ t base len = some r →
      exec set s = s.completes set (win (some ⟨r, base, len⟩))) ∧
    (s.ready set s1 → len ≠ 0 → there → s1.bind_ t base len = none →
      exec set s = .next (s1.raise s1.stream ⟨.remote, t⟩)) ∧
    (s.ready set s1 → len ≠ 0 → ¬there → exec set s = .next s1) ∧
    (s.ready (.winq h d k sel) s1 → exec (.winq h d k sel) s = s.completes (.winq h d k sel)
      (s1.result d (.ofNat 64 (match cur with
        | none => 0
        | some x => if sel then x.base else status x)))) ∧
    (s.ready (.cpyq h d a) s1 → exec (.cpyq h d a) s = s.completes (.cpyq h d a)
      (s1.result d (.ofNat 64 (tagged * 2 ^ 32 + i1.timed.length * 2 ^ 16 + i1.copies.length * 2 ^ 8 +
        i1.shq.length))))

/-- R212, R216, R219, R221, R222, R226: an `FGO` or `CPY` in any mode whose furrow and parameters pass the
checks hands over one command with the furrow's snapshot: to the end of its stream's engine queue, of
the shuttle queue, or, while its time is to come, of the time-sorted buffer. A full queue stalls it. -/
def Obligations.CopyCommandResults : Prop :=
  ∀ (h : Head) (time : Option (Fin 32)) (f : Fin 64) (t p : Src) (s s1 : State),
    let i1 := s1.inst
    let fur := i1.store.fur.get 0 f
    let wins := i1.resolve fur
    let pv := s1.val h .i64 p
    let tv := s1.val h .i64 t
    let at_ := time.map fun k => i1.g s1.stream k
    let later : Prop := ∃ x, at_ = some x ∧ s1.mtime.toNat < x.toNat
    let made (i : Instr) (op : CmdOp) (vals : List Word) : Cmd :=
      { id := i1.nextCmd, st := s1.stream, instr := i, head := i.head, op := op, vals := vals, tag := s1.str.tag,
        snap := fur, wins := wins, cbpol := s1.str.cbpol, shpol := s1.str.shpol, started := false, written := [],
        prog := {}, joined := s1.joinedNow, after := s1.str.eqDone + s1.str.eq.length }
    let i2 := { i1 with nextCmd := i1.nextCmd + 1,
                        gran := i1.gran || fKind fur 0 == WKind.granary || fKind fur 1 == WKind.granary }
    let fgo (i : Instr) (mode : CopyMode) (v : Word) : Prop :=
      s.readyCmd i s1 → i1.furOk (some s1.stream) mode fur f = .ok () → paramOk mode v = .ok () →
      (s1.str.cmds < 16 → exec i s = s.handsOver i (s1.setInst (i2.modStr s1.stream fun x =>
        { x with eq := x.eq ++ [EqItem.cmd (made i (.fgo mode v) [.ofNat 64 f.val, v, 0, 0])] }))) ∧
      (16 ≤ s1.str.cmds → exec i s = .next s1)
    let cpy (i : Instr) (mode : CopyMode) (v : Word) : Prop :=
      let c := made i (.cpy mode tv v at_) [.ofNat 64 f.val, tv, v, at_.getD 0]
      s.readyCmd i s1 → i1.furOk none mode fur f = .ok () → paramOk mode v = .ok () →
      orderedOk mode fur wins tv f = .ok () → s1.tbarOk wins tv = .ok () →
      (¬later → i1.shq.length < 64 → exec i s = s.handsOver i (s1.setInst { i2 with shq := i1.shq ++ [c] })) ∧
      (later → i1.timed.length < 32 → exec i s = s.handsOver i (s1.setInst { i2 with timed := i1.timed ++ [c] })) ∧
      ((¬later ∧ 64 ≤ i1.shq.length) ∨ (later ∧ 32 ≤ i1.timed.length) → exec i s = .next s1)
    fgo (.fgo h f) .plain 0 ∧ fgo (.fgoUnf h f p) .unfold pv ∧ fgo (.fgoDec h f p) .decode pv ∧
      cpy (.cpy h time f t) .plain 0 ∧ cpy (.cpyUnf h time f t p) .unfold pv ∧
      cpy (.cpyDec h time f t p) .decode pv ∧ cpy (.cpyRed h time f t) .reduce 0 ∧
      cpy (.cpyOred h time f t p) .ordered pv

/-- R233, R238 to R240, R247 to R253, R257 to R261: every Loom instruction of M hands one command to the
Loom's queue while that holds fewer than 32, a `WEAVE` where its checks pass; R251: `ACCLD` and `ACCST` of
L and S move a tile and its image themselves where no tile lock and no earlier work of the stream is in
their way. The tile operand of `SCACC` and the address operand of `DRAIN` are read as I64 (log 14). -/
def Obligations.LoomInstructionResults : Prop :=
  ∀ (h : Head) (sp reed acc raw fp clr : Bool) (pair : Pair) (ty : Ty) (pol : Pol) (f : Fin 64) (bank : Fin 8)
    (rt : Fin 4) (d : Dst) (a b c : Src) (l : List Loc) (s s1 : State),
    let i1 := s1.inst
    let fur := i1.store.fur.get 0 f
    let x := s1.val h .i64
    let n := s1.val h .n64
    let sum (a b : Src) : Word := .ofNat 64 (s1.addr h a b)
    let hands (i : Instr) (op : CmdOp) (vals : List Word) (fur : Fur) (tiles : List Nat) : Prop :=
      s.readyCmd i s1 → s1.str.cmds < 32 → exec i s = s.handsOver i
        (s1.enqueue { s1.command i op vals fur (i1.resolve fur) with written := tiles } fur)
    let weave : Instr := .weave h sp reed pair f b acc raw
    let ld : Instr := .accld h a b c
    let st : Instr := .accst h a b c
    let m : BitVec 32 := (s1.val h (if fp then .f32 else .i32) c).setWidth 32
    let places := (List.range 4096).map fun k => Loc.acc (4096 * (n a).toNat + k)
    let image (t : State) : List Byte := places.map (t.peek t.inst)
    (s1.weaveOk fur f sp raw (x b) = .ok () → hands weave (.weave sp reed pair (x b) acc raw)
      [.ofNat 64 f.val, x b, 0, 0] fur (if raw then [] else weaveTiles fur)) ∧
    hands (.scacc h a b) (.scacc (x a) (x b)) [x a, x b, 0, 0] 0 [(x a).toNat] ∧
    hands (.lmodeWrap h) (.lmode false) [] 0 [] ∧ hands (.lmodeSat h) (.lmode true) [] 0 [] ∧
    hands (.lsync h) .lsync [] 0 [] ∧
    hands (.accclr h a b) (.accclr (n a) (n b)) [n a, n b, 0, 0] 0
      ((List.range (min (n b).toNat 768)).map ((n a).toNat + ·)) ∧
    (s.stream = .M → hands ld (.accld (n a) (sum b c)) [n a, x b, x c, 0] 0 [(n a).toNat]) ∧
    (s.stream = .M → hands st (.accst (sum b c) (n a)) [n a, x b, x c, 0] 0 []) ∧
    (s.stream ≠ .M → s.ready ld s1 → s1.imageOf .read (n a) (sum b c) = .ok l →
      s1.tileFree (n a) l [] = true → exec ld s = s.completes ld
        (s1.pokes (some .loom) (places.zip (s1.load s1.stream l)))) ∧
    (s.stream ≠ .M → s.ready st s1 → s1.imageOf .write (n a) (sum b c) = .ok l →
      s1.tileFree (n a) l l = true → s1.inst.tileSound (n a).toNat = .ok () → exec st s = s.completes st
        (s1.pokes (some s1.me) (l.zip (image s1)))) ∧
    hands (.accaddRow h fp a b c) (.accadd false fp (n a) (x b) m) [n a, x b, m.setWidth 64, 0] 0 [(n a).toNat] ∧
    hands (.accaddCol h fp a b c) (.accadd true fp (n a) (x b) m) [n a, x b, m.setWidth 64, 0] 0 [(n a).toNat] ∧
    hands (.drain h ty pol clr a b c) (.drain ty pol clr (x a) (n b) (x c)) [x a, n b, x c, 0] 0
      (if clr then [(n b).toNat] else []) ∧
    hands (.mdcopy h a b c) (.mdcopy (n a) (x b) (n c)) [n a, x b, n c, 0] 0 [] ∧
    hands (.cbld h bank a b) (.cbld bank (sum a b)) [x a, x b, 0, 0] 0 [] ∧
    hands (.cbq h d bank) (.cbq d bank) [] 0 [] ∧
    hands (.reedld h rt a b) (.reedld rt (sum a b)) [x a, x b, 0, 0] 0 [] ∧
    hands (.reedselOn h rt) (.reedsel (some rt)) [] 0 [] ∧ hands (.reedselOff h) (.reedsel none) [] 0 []

/-- R12, R99, R100, R104, R113, R114, R132, R144, R302 and logs 8, 21 and 26: the events that end a stream's stall
take effect in a live instance: a `PAUSE` whose cycles have passed completes, the earliest waiter of a
semaphore takes its amount once the count, which holds no error, suffices, a `FENCE.X` whose markers have reached the heads of their queues
completes, a store write that may be performed is, and the stream whose turn a lock is runs its `LDL` or
atomic. In which order held writes become performed is the model's choice of log 8, that a queued command of
the Loom waits for no earlier access of M (`overtaken`) is found as log 21 chooses, what an `LDL` waits for
beside its lock, and what gives the lock back, is that of log 26. -/
def Obligations.StreamEventResults : Prop :=
  ∀ (core idx end_ amt : Nat) (st : Stream) (h : Head) (n : Fin 32) (w : Waiter) (p : Performed) (sx w64 : Bool)
    (sc : Scope) (sz : Size) (d : Dst) (a b c : Src) (off : Nat) (l : List Loc) (before after : List (Stream × Instr))
    (s : State),
    let e := s.on core st
    let e0 := s.on core s.stream
    let x := e.str
    let live : Prop := e.inst.phase.live = true
    let stores := [Stream.L, .M, .V, .S]
    let joined : Prop := (∀ t ∈ stores, EqItem.marker st ∈ (e.inst.streams.get t).eq →
      (e.inst.streams.get t).eq.head? = some (.marker st)) ∧
      ∀ c ∈ e.inst.shq ++ e.inst.copies, c.id ∉ x.joinShq
    let e1 := e.setInst (e.inst.dropMarkers st)
    let e2 := stores.foldl State.settle (e1.setStr { e1.str with join := none, joinShq := [] })
    let took : Inst := { e0.inst.setSem n (e0.inst.semOf n - amt) with waits := e0.inst.waits.erase (w, n, amt) }
    let turn (i : Instr) (ad : Nat) : Prop := e.inst.ldlq = before ++ (st, i) :: after ∧ (∀ y ∈ before, y.1 ≠ st) ∧
      e.lockFree st (lockOf (ad % 2 ^ 21)) before = true
    let runs (i : Instr) : State := e.setInst { e.inst with ldlq := (before ++ (st, i) :: after).filter fun y => y.1 != st }
    let ldl : Instr := .ldl h sx sz d a b
    let f := runs ldl
    let ad := e.addr h a b
    let g := f.setStr { f.str with lock := none }
    let held := g.setStr { g.str with lock := some (lockOf (ad % 2 ^ 21)) }
    let v := ofBytes (held.load st l)
    let k := if w64 then 8 else 4
    let ty := Ty.intOf true (8 * k)
    let at_ := (e.val h .i64 a).toNat
    let y := (e.val h ty b).toNat % 2 ^ (8 * k)
    let z := (e.val h ty c).toNat % 2 ^ (8 * k)
    let sg (x : Nat) : Int := (BitVec.ofNat (8 * k) x).toInt
    let gives (i : Instr) (new : Nat → Nat) : Prop := turn i at_ → (runs i).scalarAt .write at_ k = .ok l →
      place at_ = .local_ off → (runs i).inst.soundAt localBase l = .ok () → (runs i).unheld l = true →
      (runs i).free_ l = true → (sc = .stream ∨ x.performed = true) →
      exec (.ldlLockGrant core st) s = (runs i).completes i (amoNow d k l new (runs i))
    (x.pause = some (end_, h) → end_ ≤ 2 * s.mtime.toNat → live → exec (.pauseEnd core st) s =
      .next ((e.setStr { x with pause := none }).complete x.pc (postOf h))) ∧
    (e0.inst.waits.find? (fun y => y.2.1 == n) = some (w, n, amt) → amt ≤ e0.inst.semOf n →
      e0.inst.phase.live = true → e0.inst.sound [.sem n] = .ok () →
      (∀ t c, w = .queue t → firstCmd (e0.inst.streams.get t).eq = some c → e0.overtaken c = false) → exec (.waitGrant core n) s = .next (e0.setInst (took.granted n amt w))) ∧
    (x.join = some h → live → joined → e2.inst.phase.live = true → exec (.fenceXJoin core st) s =
      .next (e2.complete (e2.str.pc + .ofNat 64 h.len) (postOf h))) ∧
    (performAt idx x.eq [] true = some p → e.inst.sound [.held st (x.eqDone + p.entry)] = .ok () →
      exec (.storeWritePerformed core st idx) s = .next (((e.setStr { x with eq := p.eq }).performEl st (x.eqDone + p.entry) p.unlock p.bytes).settle st)) ∧
    (turn ldl ad → x.unlocking = false → ad % sz.bytes = 0 → place ad = .local_ off →
      f.at_ .read ad sz.bytes = .ok l → f.free_ l = true → exec (.ldlLockGrant core st) s = f.completes ldl
        (held.result d (if sx then .ofInt 64 (BitVec.ofNat (8 * sz.bytes) v).toInt else .ofNat 64 v))) ∧
    gives (.amoAdd h w64 sc d a b) (fun m => (m + y) % 2 ^ (8 * k)) ∧
    gives (.amoAnd h w64 sc d a b) (fun m => m &&& y) ∧ gives (.amoOr h w64 sc d a b) (fun m => m ||| y) ∧
    gives (.amoXor h w64 sc d a b) (fun m => m ^^^ y) ∧
    gives (.amoSmin h w64 sc d a b) (fun m => if sg y < sg m then y else m) ∧
    gives (.amoSmax h w64 sc d a b) (fun m => if sg m < sg y then y else m) ∧
    gives (.amoUmin h w64 sc d a b) (fun m => min m y) ∧ gives (.amoUmax h w64 sc d a b) (fun m => max m y) ∧
    gives (.amoSwap h w64 sc d a b) (fun _ => y) ∧
    gives (.amoCas h w64 sc d a b c) (fun m => if m = z then y else m)

/-- R141, R143, R144, R302: a nudge that is due is delivered: C goes to the nudge vector with the interrupted pc in
`cr.NUDGEPC`, its sources pass from pending to `cr.NUDGESRC`, and nudges are masked. A `WAITI` or a `PAUSE`
that waits completes first, with its post, which must not overflow its semaphore (R11) nor find an error in it;
a stalled instruction is left as not started, where no other stream has a post that waits. That the stall of C is
withdrawn so, and that the nudge stays pending where that post overflows, is the model's choice of log 18. -/
def Obligations.NudgeDeliveryResult : Prop :=
  ∀ (core : Nat) (s : State),
    let e := s.on core .C
    let i := e.inst
    let tb := i.tbp && i.arm.getLsbD 0
    let qu := i.qp && i.arm.getLsbD 1
    let fits (h : Head) : Prop := h.pamt = 0 ∨
      (i.semOf h.psem + h.pamt < 65536 ∧ i.sound [.sem h.psem] = .ok ())
    let waits (it : EqItem) : Prop := ∃ l, it = .post l
    i.phase = .running → i.streams.c.active = true → i.streams.c.rdv = false → i.inhnd = false → i.nmask = false →
    i.nudgevec ≠ 0 → (tb || qu) = true → i.streams.c.eq = [] → (∀ h, i.waiti = some h → fits h) →
      (∀ y, i.waiti = none → i.streams.c.pause = some y → i.streams.c.got = [] ∧ fits y.2) →
      (i.waiti = none → ∀ st, st ≠ .C → ∀ it ∈ (i.streams.get st).eq, ¬waits it) →
      ∃ t, exec (.nudgeDelivery core) s = .next t ∧ t.inst.streams.c.pc = i.nudgevec ∧ t.inst.nmask = true ∧
        t.inst.nudgepc = i.streams.c.pc + (match i.waiti with
          | some h => .ofNat 64 h.len
          | none => 0) ∧
        t.inst.srcTbar = tb ∧ t.inst.srcQueue = qu ∧ t.inst.tbp = (i.tbp && !tb) ∧ t.inst.qp = (i.qp && !qu) ∧
        t.inst.waiti = none ∧
        (∀ y, i.waiti = none → i.streams.c.pause = some y → t.inst.streams.c.pause = none ∧
          t.inst.semOf y.2.psem = i.semOf y.2.psem + y.2.pamt)

/-- R12, R111, R219, R222, R225, R226, R230, R233, R236, R253, R302 and logs 13 and 21: the events of commands take
effect in a live instance: an unstarted one at the head of its queue that holds no error starts with its wait
taken, a `DRAIN` with its parameter block read; a timed copy whose time has come enters the shuttle queue, an
`FGO` that has moved every point posts and leaves, an ordered copy reaches its turn, and a copy that has moved
every point, behind its issuer's earlier accesses, counts on its tbar and posts. That a copy of no point waits
for those accesses too is the model's choice of log 13; that M's accesses behind a queued command which did
not touch them keep it from starting where it would (`overtaken`), that of log 21. -/
def Obligations.CommandEventResults : Prop :=
  ∀ (core id k : Nat) (st : Stream) (c : Cmd) (q : List EqItem) (r : List Cmd) (before after : List Cmd)
    (n uid off : Nat) (v i2 : Inst) (s u : State),
    let e := s.on core st
    let m := s.on core .M
    let e0 := s.on core s.stream
    let es := e0.on core c.st
    let may (i : Inst) : Prop :=
      i.sound (.cmd c.id :: if c.head.wamt = 0 then [] else [.sem c.head.wsem]) = .ok () ∧ (c.head.wamt = 0 ∨
      ((∀ y ∈ i.waits, y.2.1 ≠ c.head.wsem) ∧ c.head.wamt.val ≤ i.semOf c.head.wsem))
    let paid (i : Inst) : Inst :=
      if c.head.wamt = 0 then i else i.setSem c.head.wsem (i.semOf c.head.wsem - c.head.wamt.val)
    let starts (e : State) (st : Stream) : State := e.setInst ((paid e.inst).modStr st fun x =>
      { x with eq := .cmd { c with started := true, block := e.inst.blockOf c } :: q })
    let head (e : State) (st : Stream) : Prop := e.inst.phase.live = true ∧
      e.str.eq = .cmd c :: q ∧ c.started = false ∧ (∀ y ∈ e.inst.waits, y.1 ≠ .queue st) ∧ may e.inst
    let i0 := e0.inst
    let marked : State :=
      es.setInst (es.inst.setOp (.copy id) { c with prog := { c.prog with applied := true } })
    let tb := es.tbGet n v off
    let gone (i : Inst) : Inst := { i with copies := i.copies.filter (·.id != id) }
    let running_ : Prop := i0.copies.find? (·.id == id) = some c ∧ i0.phase.live = true
    let readable (v : Inst) (off : Nat) : Prop :=
      v.soundAt localBase ((List.range 16).map fun z => Loc.spad (off + z)) = .ok ()
    (head e st → st ≠ .M → exec (.fgoCommandStart core st) s = .next (starts e st)) ∧
    (head m .M → m.inst.inhnd = false ∨ m.inst.loomHeld = false → m.overtaken c = false →
      exec (.loomCommandStart core) s = .next (starts m .M)) ∧
    (∀ ty pol clr a t p o i, c.op = .drain ty pol clr a t p → place p.toNat = .local_ o →
      Inst.blockOf i c = ofBytes (SMap.getList 0 i.store.spad o 528)) ∧
    (i0.phase.live = true → i0.shq = c :: r → i0.copies.length < 16 → (∀ y ∈ i0.waits, y.1 ≠ .shuttle) → may i0 →
      exec (.shuttleCommandStart core) s = .next (es.setInst
        { paid i0 with shq := r, copies := i0.copies ++ [{ c with started := true }] })) ∧
    (i0.phase.live = true → i0.timed = before ++ c :: after → (∀ y ∈ before, c.time < y.time) →
      (∀ y ∈ after, c.time ≤ y.time) → c.time ≤ s.mtime.toNat → i0.shq.length < 64 →
      exec (.timedCopyRelease core) s = .next (e0.setInst
        { i0 with timed := (before ++ c :: after).filter (·.id != c.id), shq := i0.shq ++ [c] })) ∧
    (e.inst.phase.live = true → e.str.eq = .cmd c :: q → c.started = true → c.op.copy.isSome = true →
      fPoints c.snap ≤ c.prog.pt → exec (.fgoComplete core st) s =
        .next ((e.setStr { e.str with eq := .post (postOf c.head) :: q }).settle st)) ∧
    (running_ → c.index = some k → es.tbarOf c = some (n, uid, off) → c.prog.applied = false →
      es.instOf n uid = some v → readable v off → tb.armed = true → tb.ord = true → tb.next = k →
      exec (.orderedReduceApply core id) s = .next marked) ∧
    (running_ → fPoints c.snap ≤ c.prog.pt → (c.index = none ∨ c.prog.applied = true) → es.follows c = false →
      (∀ n uid off v, es.tbarOf c = some (n, uid, off) → es.instOf n uid = some v → readable v off) →
      es.countCopy c = .ok u →
      (if c.head.pamt = 0 then i2 = gone u.inst else (gone u.inst).post c.head.psem c.head.pamt = .ok i2) →
      exec (.copyComplete core id) s = .next (u.setInst i2))

/-- R85, R93, R210, R220, R227, R229, R230, R232, R284, R302 and logs 13 and 39: a point of a running copy or `FGO` moves: every byte of
its destination element receives the source's byte, zeros where an unfold's point is padding, and for a
reduce the element combined with the old one. It happens where both elements are in range and may be
accessed, no tile lock holds them, no port is missing and no bank of the granary refreshes; in a stopped
instance only inside a sector that was begun. A turn moves the points that share one aligned 8-byte word of
the destination, a decoding one a block; an ordered reduce before its turn reads ahead (log 39); a refresh
window holds a point to its end. Which of the unordered writes a copy's shuttle sees is log 13's. -/
def Obligations.CopyPointResults : Prop :=
  ∀ (core back till : Nat) (en : Engine) (c c2 : Cmd) (mode : CopyMode) (par : Word) (src dst : List ELoc)
    (s u v : State),
    let e0 := s.on core s.stream
    let e := e0.on core c.st
    let e1 := e.looks c back src
    let f := c.snap
    let point (k : Nat) := pointAt (fBounds f) k
    let ix := point c.prog.pt
    let n := fSize f 1
    let pad : Bool := mode == .unfold && padded par ix
    let value : List Byte := match c.prog.buf with
      | b :: _ => b
      | [] => if pad then List.replicate n 0 else e1.srcBytes c n src
    let old := ofBytes (dst.map (e1.elemByte { c with op := .lsync }))
    let shown := if mode.reduces ∧ (fKind f 1 = .global ∨ fKind f 1 = .remote) then e1.external else e1
    let bytes : List Byte := if mode.reduces then toBytes n (combine f old (ofBytes value)) else value
    let by_ : Option Writer := match c.op with
      | .fgo _ _ => some ⟨c.st, (e.inst.streams.get c.st).eqDone⟩
      | _ => none
    let sectors := addSectors c.prog.sectors dst
    let prog : Prog := { c.prog with began := none, fault := false }
    let moved : Cmd := { c with prog :=
      { prog with pt := c.prog.pt + 1, dsrc := 0, sectors := sectors, buf := c.prog.buf.drop 1 } }
    let runs : Prop := e0.inst.op en = some c ∧ c.op.copy = some (mode, par) ∧ c.prog.hold = none ∧
      c.prog.pt < fPoints f ∧ e.follows c = false ∧ e.inst.sound [.cmd c.id] = .ok ()
    let live : Prop := e.inst.phase.live = true
    let places : Prop := mode ≠ .decode ∧ (mode = .ordered → c.prog.applied = true) ∧
      (c.prog.buf = [] → pad = false → e.elemAt c .read 0 (fOffset f 0 ix) n n = .ok src) ∧
      (c.prog.buf ≠ [] ∨ pad = true → src = []) ∧ (c.prog.buf = [] → pad = false → src ≠ []) ∧
      e.elemAt c .write 1 (fOffset f 1 ix) n n = .ok dst ∧
      (mode.reduces = true → ∃ x, e.elemAt c .read 1 (fOffset f 1 ix) n n = .ok x) ∧ (src ++ dst).any e.inst.held = false ∧
      (src ++ dst).any e.cutOff = false
    let one : State := State.count { u with free := u.free + 512 } u.core 5 bytes.length
    let turn (t : State) : Prop := exec (.copyPoint core en back) s = .next t
    (runs → places → (live ∨ (c.prog.fault = false ∧ sectors.length = c.prog.sectors.length)) →
      e.refreshing c (src ++ dst) = none → shown.putBytes by_ (dst.zip bytes) = .ok u →
      e.move c back = .ok one moved none ∧
      (one.sameWord moved dst = none → turn (one.setInst (one.inst.setOp en moved))) ∧
      (one.moveWord back 8 moved dst = .ok v c2 none → turn (v.setInst (v.inst.setOp en
        { c2 with prog := { c2.prog with began := none } })))) ∧
    (runs → places → live → e.refreshing c (src ++ dst) = some till → turn ((e.setInst (e.inst.setOp en { c with prog :=
      { c.prog with hold := some till, began := some (c.prog.began.getD s.mtime.toNat) } })).count core 7
        (e.delays c (src ++ dst)))) ∧
    (runs → live → mode = .decode → e.moveBlock c (fld par 0 8) back = .ok u c2 none →
      turn (u.setInst (u.inst.setOp en c2))) ∧
    (runs → live → mode = .ordered → c.prog.applied = false → c.prog.pt + c.prog.buf.length < fPoints f →
      e.elemAt c .read 0 (fOffset f 0 (point (c.prog.pt + c.prog.buf.length))) n n = .ok src →
      src.any e.inst.held = false → src.any e.cutOff = false → e.refreshing c src = none →
      turn ({ e1 with free := e1.free + 512 }.setInst (e1.inst.setOp en { c with prog :=
        { prog with buf := c.prog.buf ++ [e1.srcBytes c n src] } }))) ∧
    (e0.inst.op en = some c → c.prog.hold = some till → till ≤ s.mtime.toNat →
      exec (.granaryReadResume core en) s = .next (e0.setInst
        (e0.inst.setOp en { c with prog := { c.prog with hold := none } })))

/-- R233 to R236, R242, R245, R255: a step of a running `WEAVE` whose operands are all fetched takes effect: a plain
one on its tile, a sheaf one on the raw tile and, at a point's last step and without RAW, on its tile. A
finished `WEAVE`, and any other Loom command that meets no cause, completes, posts and leaves; one that
meets a cause counts as not started, and the cause is raised in M; where that enters the job's handler, the
command is kept from starting until `RETF`. A `DRAIN` that shares bytes with columns it does not drain has read
them in a turn before, so that what other agents write to them in between is lost (R255). -/
def Obligations.LoomEventResults : Prop :=
  ∀ (core tile : Nat) (c : Cmd) (w : Weave) (a b : List (List Nat)) (q : List EqItem) (t : Trap) (s e u : State),
    let m := s.on core .M
    let live : Prop := m.inst.phase.live = true
    let runs : Prop := m.str.eq = .cmd c :: q ∧ c.started = true
    let left (t : State) : State :=
      (t.setInst (t.inst.modStr .M fun x => { x with eq := .post (postOf c.head) :: x.eq.drop 1 })).settle .M
    let sub := c.prog.pt % pairSteps w.pair + 1
    let ends : Prop := sub = pairSteps w.pair
    let add (l : List Loc) : List Loc := if l.contains (.acc tile) then l else l ++ [.acc tile]
    let steps (t : State) (l : List Loc) : State :=
      let c2 := { c with prog := { c.prog with pt := c.prog.pt + 1, stage := [], sectors := l, began := none } }
      (t.setInst (t.inst.setOp .loom c2)).count t.core 3 1
    let x := e.sheafStep w a b
    let new := w.acc || w.wrote tile
    let whole : Prop := Weave.of c = none ∧ (c.shares = false ∨ c.shared ≠ none)
    (runs → live → Weave.of c = some w → c.prog.hold = none → c.prog.pt < w.total → c.prog.stage = [] →
      m.claims core (m.inst.loomUnits c) = .ok e → e.reedOk w = .ok () →
      fetchRows (e.rowA w) (List.range 32) = (a, none) → fetchRows (e.colB w) (List.range 32) = (b, none) →
      e.twoBooks w a b = .ok () → e.stepSound w = .ok () → (w.raw = false → e.weaveTile w = .ok tile) →
      (w.raw = true → tile = 0) →
      (w.pair.sheaf = false → exec (.loomStep core) s = .next (steps (e.plainStep w tile a b) (add c.prog.sectors))) ∧
      (w.pair.sheaf = true → ends → w.raw = false → exec (.loomStep core) s = .next (steps
        (x.updateTile (!w.wrote tile) tile new (fold x.inst.store.raw 0)) (add c.prog.sectors))) ∧
      (w.pair.sheaf = true → (¬ends ∨ w.raw = true) → exec (.loomStep core) s = .next (steps x c.prog.sectors))) ∧
    (runs → live → Weave.of c = some w → w.total ≤ c.prog.pt → exec (.loomCommandComplete core) s =
      .next (left (m.setInst { m.inst with mprog := {} }))) ∧
    (runs → live → Weave.of c = none → c.shares = true → c.shared = none → exec (.loomCommandComplete core) s =
      .next (m.setInst (m.inst.setOp .loom { c with shared := some (m.sharedBytes c) }))) ∧
    (runs → live → whole → m.claims core (m.inst.loomUnits c) = .ok e → e.loomRun c = .ok u →
      exec (.loomCommandComplete core) s = .next (left u)) ∧
    (runs → live → whole → m.claims core (m.inst.loomUnits c) = .ok e → e.loomRun c = .error t →
      c.head.wamt = 0 → exec (.loomCommandComplete core) s =
        .next (let f := (e.setInst (e.inst.setOp .loom { c with started := false })).raise .M t
          if f.inst.inhnd = true ∧ e.inst.inhnd = false then f.setInst { f.inst with loomHeld := true } else f))

/-- R247 to R261, R233, R62, R88 and logs 38 and 66: what the Loom commands other than `WEAVE` do where they meet no cause: on the
tiles, `SCACC`, `ACCCLR`, `ACCADD` and `ACCLD`; on memory, `ACCST` and `DRAIN`, whose integers are rounded to
nearest even; on the Loom's tables and modes, `MDCOPY`, `CBLD`, `REEDLD`, `REEDSEL` and `LMODE`; `CBQ` gives
its result to M. Each then posts and leaves its queue. The nibble that a `DRAIN` of an odd number of columns
keeps in a shared byte is the one it read in a turn before (R255). That an `ACCCLR` of count 0 does nothing whatever its
tile is the model's choice of log 38; that the scaling step of `DRAIN` sets NV where a product 0 × ∞ meets a
NaN in BIAS, that of log 66. -/
def Obligations.LoomCommandEffects : Prop :=
  ∀ (core off : Nat) (c : Cmd) (q : List EqItem) (t ad adj n par : Word) (sat col fp clr : Bool) (ty : Ty) (pol : Pol)
    (m : BitVec 32) (bank : Fin 8) (rt : Fin 4) (sel : Option (Fin 4)) (d : Dst) (l : List Loc) (k : Nat → Nat → Int)
    (g : Nat → Nat → Flags) (p : Nat → Nat → List Loc) (v : Nat → Nat → Nat × Flags)
    (sh : Nat → List (Loc × Byte) × Flags) (s e : State),
    let h := s.on core .M
    let runs (op : CmdOp) : Prop := c.op = op ∧ h.str.eq = .cmd c :: q ∧ c.started = true ∧
      h.inst.phase.live = true ∧ (c.shares = false ∨ c.shared ≠ none) ∧ h.claims core (h.inst.loomUnits c) = .ok e
    let done (u : State) : Prop := exec (.loomCommandComplete core) s = .next ((u.setInst
      (u.inst.modStr .M fun x => { x with eq := .post (postOf c.head) :: x.eq.drop 1 })).settle .M)
    let i := e.inst
    let inTile : Prop := t.toNat < i.acct ∧ i.tileSound t.toNat = .ok ()
    let tile (j : Inst) (t x y : Nat) : Nat :=
      ofBytes ((List.range 4).map fun b => j.store.acc.get 0 (4096 * t + 128 * x + 4 * y + b))
    let bytes := l.map (e.peek i)
    let word (k : Nat) : Nat := ofBytes ((bytes.drop (4 * k)).take 4)
    let keeps (u : State) (may : Nat → Prop) : Prop := u.mem = e.mem ∧ u.inst.store.spad = i.store.spad ∧
      ∀ t', ¬may t' → ∀ x y, x < 32 → y < 32 → tile u.inst t' x y = tile i t' x y
    let elems (f : Nat → Nat → Nat × Flags) : Prop := ∃ u, done u ∧ keeps u (· = t.toNat) ∧
      (∀ x y, x < 32 → y < 32 → tile u.inst t.toNat x y = (f x y).1) ∧
      u.inst.ovf = i.ovf ||| (List.range 1024).foldr (fun z r => (f (z / 32) (z % 32)).2 ||| r) 0
    let raw := i.store.raw
    let scale (x y : Nat) : Int := (raw.sa.get 0 x).toNat + (raw.sb.get 0 y).toNat - 254 + adj.toInt
    let prod (x y : Nat) : Fl × Flags :=
      Fl.mul (Ty.f32.decode m.toNat) (Ty.f32.decode (word (if col then x else y)))
    let sum (x y : Nat) : Int :=
      Ty.i32.int (tile i t.toNat x y) + m.toInt * Ty.i32.int (word (if col then x else y))
    let places := (List.range 4096).map fun z => Loc.acc (4096 * t.toNat + z)
    let puts (u : State) (w : List (Loc × Byte)) : State := u.pokes (some .loom) w
    let mended (x : Spot) := i.bad.filter (·.1 != x)
    let entries : List CbEntry := (List.range 256).map fun z =>
      ⟨bytes.getD (2048 + z) 0, .ofNat 64 (ofBytes ((bytes.drop (8 * z)).take 8))⟩
    let values : List (BitVec 16) := (List.range 4096).map fun z => .ofNat 16 (ofBytes ((bytes.drop (2 * z)).take 2))
    let blk (lo w : Nat) : Nat := c.block / 2 ^ lo % 2 ^ w
    let rows := blk 0 5 + 1
    let cols := blk 8 5 + 1
    let size := max 1 (ty.width / 8)
    let at_ (r j : Nat) : Nat :=
      (ad.toNat + r * blk 32 32 + (if ty.width = 4 then j / 2 else j * size)) % 2 ^ 64
    let col_ (j lo w : Nat) : Nat := blk (128 + 128 * j + lo) w
    let acc (r j : Nat) : Nat := tile i t.toNat r j
    let fl (x : Nat) : Fl := Ty.f32.decode x
    let quiet (x : Fl) : Fl := match x with
      | .nan _ => .nan false
      | x => x
    let y (r j : Nat) : Fl × Flags :=
      if blk 16 1 = 1 then Fl.fma 0 (quiet (fl (acc r j))) (fl (col_ j 32 32)) (fl (col_ j 0 32))
      else (Fl.ofInt (k r j + Ty.i32.int (col_ j 64 32)), 0)
    let product (r j : Nat) : Int := (Ty.i32.int (acc r j) + Ty.i32.int (col_ j 0 32)) * Ty.i32.int (col_ j 32 32)
    let nearest (r j : Nat) : Prop := let z := 2 ^ col_ j 96 6
      2 * (product r j - k r j * z).natAbs ≤ z ∧ (2 * (product r j - k r j * z).natAbs = z → k r j % 2 = 0)
    let elem (r j : Nat) : Prop := at_ r j % size = 0 ∧ e.at_ .write (at_ r j) size = .ok (p r j) ∧ nearest r j ∧
      ty.convert 0 pol false (y r j).1 = some ((v r j).1, g r j) ∧
      (v r j).2 = (y r j).2 ||| (g r j &&& ~~~(Flags.nx ||| Flags.uf)) ∧
      (ty.width = 4 → j % 2 = 0 → j + 1 = cols → i.soundAt localBase (p r j) = .ok ())
    let all := (List.range rows).flatMap fun r => (List.range cols).map fun j => (r, j)
    let pairs := (List.range rows).flatMap fun r => (List.range ((cols + 1) / 2)).map fun j => (r, 2 * j)
    let shown (u : State) (old : List (Loc × Byte)) (z : Loc) : Byte :=
      ((old.find? (·.1 == z)).map (·.2)).getD (u.peek u.inst z)
    let drained : State :=
      if ty.width = 4 then (pairs.foldl (fun (r : State × List (Loc × Byte)) x =>
        (puts r.1 ((p x.1 x.2).map fun z => (z, .ofNat 8
          (if x.2 + 1 < cols then (v x.1 x.2).1 % 16 + 16 * (v x.1 (x.2 + 1)).1
            else putBits (shown r.1 r.2 z).toNat 0 4 (v x.1 x.2).1))),
          r.2.filter fun y => !(p x.1 x.2).contains y.1)) (e, c.shared.getD [])).1
      else all.foldl (fun u x => puts u ((p x.1 x.2).zip (toBytes size (v x.1 x.2).1))) e
    let cleared (u : State) : State := if clr then puts u (places.map (·, 0)) else u
    let good : Prop := par.toNat % 16 = 0 ∧ place par.toNat = .local_ off ∧ e.at_ .read par.toNat 528 = .ok l ∧
      DrainBlock.ok ⟨c.block⟩ ty = true ∧ inTile
    (runs (.scacc t adj) → raw.valid = true → -127 ≤ adj.toInt → adj.toInt ≤ 127 → inTile → i.sound [.raw] = .ok () →
      elems fun x y => accumulate (tile i t.toNat x y)
        ((rawVal (raw.sums.get (.fin 0) (32 * x + y))).scale (scale x y))) ∧
    (runs (.accadd col fp t ad m) → ad.toNat % 16 = 0 → place ad.toNat = .local_ off →
      e.at_ .read ad.toNat 128 = .ok l → inTile → elems fun x y =>
        if fp then ((accumulate (tile i t.toNat x y) (prod x y).1).1,
          (prod x y).2 ||| (accumulate (tile i t.toNat x y) (prod x y).1).2)
        else if i.lsat then Ty.i32.satInt (sum x y) else ((sum x y % 2 ^ 32).toNat, 0)) ∧
    (runs (.accclr t n) → n = 0 ∨ t.toNat + n.toNat ≤ i.acct →
      let may (t' : Nat) : Prop := t.toNat ≤ t' ∧ t' < t.toNat + n.toNat
      ∃ u, done u ∧ keeps u may ∧ ∀ t', may t' → ∀ x y, x < 32 → y < 32 → tile u.inst t' x y = 0) ∧
    (runs (.accld t ad) → e.imageOf .read t ad = .ok l → ∃ u, done u ∧ keeps u (· = t.toNat) ∧
      ∀ z, z < 4096 → u.inst.store.acc.get 0 (4096 * t.toNat + z) = bytes.getD z 0) ∧
    (runs (.accst ad t) → e.imageOf .write t ad = .ok l → i.tileSound t.toNat = .ok () →
      done (puts e (l.zip (places.map (e.peek i))))) ∧
    (runs (.lmode sat) → done (e.setInst { i with lsat := sat })) ∧
    (runs (.reedsel sel) → done (e.setInst { i with reedsel := sel })) ∧
    (runs (.cbq d bank) → i.sound [.cb bank] = .ok () → done (e.result d (.ofNat 64 ((i.cbver.get 0 bank).toNat + 2 ^ 32 *
      ((List.range 256).filter fun z => (i.entryCb bank z).ok 0 || (i.entryCb bank z).ok 1 || (i.entryCb bank z).ok 2).length)))) ∧
    (runs (.mdcopy t ad n) → t.toNat % 16 = 0 → ad.toNat % 16 = 0 → n.toNat % 16 = 0 → t.toNat + n.toNat ≤ 131072 →
      e.at_ .read ad.toNat n.toNat = .ok l → done (e.setInst
        { i with store := { i.store with md := i.store.md.setList 0 t.toNat bytes },
                 bad := if n.toNat = 131072 then mended .md else i.bad })) ∧
    (runs (.cbld bank ad) → ad.toNat % 64 = 0 → e.at_ .read ad.toNat 2304 = .ok l → done (e.setInst
      { i with store := { i.store with cb := i.store.cb.setList ({} : CbEntry) (256 * bank) entries },
               bad := mended (.cb bank), cbver := i.cbver.set 0 bank (i.cbver.get 0 bank + 1) })) ∧
    (runs (.reedld rt ad) → ad.toNat % 64 = 0 → e.at_ .read ad.toNat 8192 = .ok l → done (e.setInst
      { i with store := { i.store with reed := i.store.reed.setList 0 (4096 * rt) values },
               bad := mended (.reed rt) })) ∧
    (runs (.drain ty pol clr ad t par) → good → ty.isSheaf = false → (∀ r j, r < rows → j < cols → elem r j) →
      done (cleared (drained.addFlags (all.foldl (fun f x => f ||| (v x.1 x.2).2) 0)))) ∧
    (runs (.drain ty pol clr ad t par) → good → ty.isSheaf = true →
      (blk 67 1 = 1 → i.sound [.cb (blk 72 3)] = .ok ()) →
      (∀ r, r < rows → e.drainSheaf ⟨c.block⟩ (ty == .sh8) (i.tile t.toNat) ad.toNat r = .ok (sh r)) →
      done (cleared ((puts { e with free := e.free + 1024 } ((List.range rows).flatMap fun r => (sh r).1)).addFlags
        ((List.range rows).foldl (fun f r => f ||| (sh r).2) 0))))

/-- R20 to R24, R263, R273 to R276, R280, R297 and log 46: the dispatcher's events take effect while dispatch
works: a launch queue's record is taken, the next instance of a ready pool is placed on a core that fits it
and is STARTING there, it starts after the lower-numbered ones of its launch with the initial state of R22,
ages by a level as the newest there, goes on to its next iteration or retires, and an idle graph is sampled
twice before it ends. -/
def Obligations.DispatchEventResults : Prop :=
  ∀ (die node inst core q run : Nat) (keep : Bool) (tk : BitVec 32) (r : BitVec 512) (x : Node) (w : WaitRun) (i : Inst)
    (ix : List (BitVec 24)) (s s1 s2 s3 : State),
    let d := s.dieAt die
    let c := s.coreAt core
    let at_ := (x.first.map (·.2)).getD (0, die)
    let pool := s.leavePool die node inst at_.1 at_.2 x
    let loops := lrLoops x.rec_
    let place : Instr := .instancePlace die node inst core
    let starting : Inst :=
      { uid := pool.nextUid, phase := .starting, hdr := x.hdr, loops := loops, inst := .ofNat 32 inst,
        idx := spatialIdx loops inst,
        launch := ⟨die, node, x.g.q, x.g.die, lrAsid x.rec_, lrRoot x.rec_, lrPlots x.rec_, x.priv, at_.1⟩ }
    let placed := pool.setCore core { pool.coreAt core with grant := x.draught != 0, main := some starting }
    let decl := ((s.nodeAt i.launch.die i.launch.node).map (·.decl)).getD []
    let same : Bool := keep && c.owner == some (i.launch.die, i.launch.node) && c.pre.isNone
    let fresh : Inst := { uid := i.uid, phase := .running, launch := i.launch, hdr := i.hdr, loops := i.loops,
                          inst := i.inst, idx := i.idx, sem := startSems i.hdr decl,
                          rings := (ringRows i.hdr decl).map ringOf, begun := s.nextUid,
                          store := { (if same then c.left else {}) with raw := {} },
                          streams := (Five.all ()).map fun st _ =>
                            { pc := if i.activeIn st then i.entry st else 0, active := i.activeIn st } }
    let older : WaitRun :=
      { w with level := w.level + 1, since := s.mtime.toNat, ord := (s.dieAt w.pool).poolN }
    let empty : Core := { c with fcause := 0, faddr := 0, regEn := true, remapCnt := 0, icache := [] }
    let e := s.on core .C
    let works (i : Inst) : Prop := (s.dieAt (dieOf core)).stopped = false ∧ (s.dieAt i.launch.die).stopped = false
    let drained : Prop := e.self.act = some i ∧ i.phase = .draining ∧ i.inhnd = false ∧ i.quietWork = true ∧ works i
    let x0 := s.lqAt die q
    let sum := s.sums (s.openGraph die q) (s.wqAt die q).asid.toNat
    let now := s.mtime.toNat
    let sampled : Prop := x0.priv = false ∧ x0.opened = true ∧ d.stopped = false ∧ q < 16
    let sample (v : Option (Nat × Nat × Nat)) : Out := .next (s.setLq die q { x0 with sample := v })
    let event := exec (.graphEndSample die q) s
    (d.stopped = false → d.full = false → s.lqNext die = some q → s.popQueue die q = some (tk, r, s1) →
      (s1.setDie die { s1.dieAt die with lqTurn := (q + 1) % 16 }).takeRecord die q r = .ok s2 →
      s2.settleGraphs = .ok s3 → exec (.launchQueueRecord die q) s = .next s3) ∧
    (s.nodeAt die node = some x → d.stopped = false → (s.dieAt at_.2).stopped = false →
      s.nextPlaced at_.2 = some (die, node, inst) → s.fits die node x inst core = true → exec place s = .next
        { placed with nextUid := pool.nextUid + 1 }) ∧
    (c.act = some i → i.phase = .starting → (s.dieAt (dieOf core)).stopped = false →
      s.startsLater i = false → exec (.instanceStart core keep) s = .next (State.count
        { s.setCore core (empty.setAct fresh) with nextUid := s.nextUid + 1 } core 9 1)) ∧
    (s.nodeAt die node = some x → x.wait[run]? = some w → w.level < 2 → 2 ^ (s.dieAt w.pool).age.toNat ≤ 2 * (now - w.since) →
      ∃ t, exec (.instanceAging die node run) s = .next t ∧ t.nodeAt die node = some { x with wait := x.wait.set run older } ∧
        x.g ∈ (t.dieAt w.pool).rot.get [] (w.level + 1) ∧ (t.dieAt w.pool).poolN = (s.dieAt w.pool).poolN + 1) ∧
    (drained → nextIter i.loops i.idx = some ix → exec (.iterationEnd core) s = .next (State.seeAll (e.setInst
      { i with idx := ix, phase := .running, ranNs := 0, streams := i.streams.map fun st x =>
        if x.active then { x with pc := i.entry st, rdv := false, got := [] } else x }) core i.uid)) ∧
    (drained → nextIter i.loops i.idx = none → e.self.pre = none →
      (e.vacate core).instRetired i.launch false = .ok s1 → exec (.iterationEnd core) s = .next s1) ∧
    (drained → nextIter i.loops i.idx = none → e.self.pre = some i →
      (e.vacate core).instRetired i.launch false = .ok s1 → exec (.preemptingRetire core) s = .next s1) ∧
    (sampled → s.graphIdle die q = false → event = sample none) ∧
    (sampled → s.graphIdle die q = true → x0.sample = none → event = sample (some (now, sum.1, sum.2))) ∧
    (sampled → s.graphIdle die q = true → ∀ t, x0.sample = some (t, sum.1, sum.2) → t + 256 ≤ now →
      (s.endGraph die q).settleGraphs = .ok s1 → event = .next s1)

/-- R278, R287, R290 to R292, R294 to R296, R302: a pre-emption the dispatcher chooses takes effect: the
victim's streams stop, posts that wait for nothing more are made, its context is saved and it is PREEMPTED, and the pre-empting instance stands
STARTING beside it on its core with the storage units it needs claimed. RESUME, ABORT, RERUN and SAVE of a
plot supervisor take effect on a STOPPED instance; any other state refuses them, and RESUME after an
uncorrectable error acts as ABORT. That a RERUN puts the instance at its launch's PRIO is the model's choice
of log 46, that the model holds back no RERUN of a launch for an external effect of another of its instances
that of log 49, and that a SAVE leaves every unit in the save area until RESUME that of log 51. -/
def Obligations.PreemptionAndSupervisorResults : Prop :=
  ∀ (die node inst core : Nat) (x : Node) (i v : Inst) (s s1 s2 s3 : State),
    let c := s.coreAt core
    let at_ := (x.first.map (·.2.2)).getD die
    let pool := s.leavePool die node inst 3 at_ x
    let loops := lrLoops x.rec_
    let new : Inst := { uid := pool.nextUid, phase := .starting, hdr := x.hdr, loops := loops, inst := .ofNat 32 inst,
                        idx := spatialIdx loops inst,
                        launch := ⟨die, node, x.g.q, x.g.die, lrAsid x.rec_, lrRoot x.rec_, lrPlots x.rec_, x.priv, 3⟩ }
    let stop := (State.on { pool with nextUid := pool.nextUid + 1 } core .C).halt
    let old := stop.inst.flushAll.unstage
    let c1 := s1.coreAt core
    let placed := s1.setCore core { c1 with
      main := some { old with phase := .preempted (old.phase == .draining), stopNs := 0 }, pre := some new,
      grant := c1.grant || x.draught != 0 }
    let can : Prop := (s.plotAt (plotOf core)).supUp = true ∧ s.quiet core = true
    let may : Prop := can ∧ c.act = some i ∧ ∃ b, i.phase = .stopped b
    let works : Prop := (s.dieAt (dieOf core)).stopped = false ∧ (s.dieAt i.launch.die).stopped = false
    let back := (if i.saved.isEmpty then i else s.restored core i)
    let cmds : List Instr := [.pcmdResume core, .pcmdAbort core, .pcmdRerun core, .pcmdSave core]
    let out := s.vacate core
    let home := if hasD (lrLoops x.rec_) then (x.groupDie i.inst.toNat).getD i.launch.die else i.launch.die
    (s.nodeAt die node = some x → (s.dieAt die).stopped = false → (s.dieAt at_).stopped = false →
      s.nextPreempt at_ = some (die, node, inst, core) → s.quiet core = true → stop.saveContext core old true [] = .ok s1 →
      placed.claims core (takenUnits (fld new.hdr 352 9) (fld old.hdr 352 9) 384 .spad) = .ok s2 →
      s2.claims core (takenUnits new.acct old.acct 768 .acc) = .ok s3 →
      exec (.preemption die node inst core) s = .next (s3.count core 0x0A 1)) ∧
    (may → c.fcause ≠ 0x11 → exec (.pcmdResume core) s = .next ((s.setCore core (c.setAct { back with
      phase := back.phase.back, streams := back.streams.map fun st x => { x with pc := c.fpc.get st } })).goOn core)) ∧
    (may → c.fcause = 0x11 → exec (.pcmdResume core) s = exec (.pcmdAbort core) s) ∧
    (may → works → ((s.voidTickets (dieOf core) i.uid).vacate core).instRetired i.launch true = .ok s1 →
      exec (.pcmdAbort core) s = .next s1) ∧
    (may → i.external = false → out.nodeAt i.launch.die i.launch.node = some x → exec (.pcmdRerun core) s =
      .next ((out.setNode i.launch.die i.launch.node { x with placed := x.placed - 1 }).enterPool i.launch.die
        i.launch.node i.inst.toNat 1 (lrPrio x.rec_) home)) ∧
    (may → i.external = true → exec (.pcmdRerun core) s = .next (s.setCore core { c with rej := true })) ∧
    (may → v = s.restored core i → s.saveContext core v false v.allUnits = .ok s1 →
      exec (.pcmdSave core) s = .next (s1.setCore core ((s1.coreAt core).setAct { v with saved := v.allUnits }))) ∧
    ((s.plotAt (plotOf core)).supUp = true → (∀ j, c.act = some j → ∀ b, j.phase ≠ .stopped b) → ∀ k ∈ cmds,
      exec k s = .next (s.setCore core { c with rej := true }))

/-- R283, R290, R291, R311 and log 52: the core port and the debug view of a core. A 32-bit write to a lower
half is held; one to an upper half completes a whole value with the lower half held for its location, or with
that of the location where none is held; the whole is written, but for PCMD and PSTAT only to a STOPPED
instance, and a refused write sets REJ, as any PCMD write does while the instance is not STOPPED, and one of
another size or alignment. Machine mode gives no
PCMD and writes no counter. A read of a lower half returns it and latches the upper half for the next read.
That a lower half is held in any state, and takes the place of another one held, is the model's choice of
log 52. -/
def Obligations.PortResults : Prop :=
  ∀ (core off bytes : Nat) (v : Word) (low : BitVec 32) (i : Inst) (s t : State),
    let c := s.coreAt core
    let at_ := off / 8 * 8
    let sup : Prop := core < 768 ∧ off < 65536 ∧ (s.plotAt (plotOf core)).supUp = true
    let host : Prop := core < 768 ∧ off < 65536 ∧ s.hartsRun = true
    let low32 (x : Word) : BitVec 32 := x.setWidth 32
    let port (p : Port) : State := s.setCore core { c with port := p }
    let view (p : Port) : State := s.setCore core { c with dview := p }
    let taken := port { c.port with low := none }
    let seen := view { c.dview with low := none }
    let settled : Prop := at_ = 0x4000 → c.isStopped = true → s.quiet core = true
    let lower : Prop := off % 8 = 0
    let upper : Prop := off % 8 = 4
    let x := s.portGet core at_
    let y := s.dviewGet core at_
    let all (p : Port) (cur : Word) : Word := low32 v ++ match p.low with
      | some (o, w) => if o = at_ then w else low32 cur
      | none => low32 cur
    let n := { s with free := s.free + 1 }
    let again (z : Word) (p : Port) : Port := { p with data := low32 z, high := some (at_ + 4, low32 (z >>> 32)) }
    let rest (z : Word) (p : Port) : Port :=
      { p with data := if p.high = some (off, low) then low else low32 (z >>> 32), high := none }
    let latched (p : Port) : Prop := p.high = some (off, low) ∨ ∀ w, p.high ≠ some (off, w)
    let beyond := s.portBeyond core at_
    let writes (t : State) : Prop := exec (.corePortWrite core off 4 v) s = .next t
    let shows (t : State) : Prop := exec (.debugViewWrite core off 4 v) s = .next t
    let rejects (t : State) : State := t.setCore core { t.coreAt core with rej := true }
    let counter : Prop := 0x400 ≤ at_ ∧ at_ < 0x480
    let odd : Prop := bytes ≠ 4 ∨ off % 4 ≠ 0
    let stat (k : Nat) : Word := .ofNat 64 (k + (if c.pre.isSome then 256 else 0) +
      (if c.act.any (·.external) then 512 else 0) + (if c.rej then 1024 else 0))
    (sup → settled → lower → writes (port { c.port with low := some (off, low32 v) })) ∧
    (sup → upper → at_ ≠ 0x4000 → at_ ≠ 0x4008 → c.isStopped = true →
      taken.portPut core at_ (all c.port x) = .ok t → writes t) ∧
    (sup → upper → at_ ≠ 0x4000 → at_ ≠ 0x4008 → c.isStopped = false →
      writes (rejects taken)) ∧
    (sup → upper → at_ = 0x4008 → writes (if (all c.port x).getLsbD 10
      then taken.setCore core { taken.coreAt core with rej := false } else taken)) ∧
    (sup → settled → upper → at_ = 0x4000 → c.isStopped = true → taken.pcmd core ((all c.port x).toNat % 8) = .ok t →
      writes t) ∧
    (sup → upper → at_ = 0x4000 → c.isStopped = false → writes (rejects taken)) ∧
    (sup → settled → odd → exec (.corePortWrite core off bytes v) s = .next (rejects s)) ∧
    (sup → lower → exec (.corePortRead core off 4) s = .next (n.setCore core { c with port := again x c.port })) ∧
    (sup → upper → latched c.port →
      exec (.corePortRead core off 4) s = .next (n.setCore core { c with port := rest x c.port })) ∧
    (sup → odd → exec (.corePortRead core off bytes) s = .next s) ∧
    (s.portGet core 0x4000 = 0 ∧ (c.act = none → s.portGet core 0x4008 = stat 0) ∧
      (c.act = some i → i.phase.live = true → s.portGet core 0x4008 = stat 1) ∧
      (c.isStopped = true → s.portGet core 0x4008 = stat 2)) ∧
    (host → lower → shows (view { c.dview with low := some (off, low32 v) })) ∧
    (host → upper → at_ < 0x4000 → ¬counter → c.isStopped = true →
      seen.portPut core at_ (all c.dview y) = .ok t → shows t) ∧
    (host → upper → counter → c.isStopped = true → shows seen) ∧
    (host → upper → at_ < 0x4000 → c.isStopped = false → shows (rejects seen)) ∧
    (host → upper → at_ = 0x4000 → shows seen) ∧
    (host → upper → at_ = 0x4008 → shows (if (all c.dview y).getLsbD 10
      then seen.setCore core { seen.coreAt core with rej := false } else seen)) ∧
    (host → upper → at_ = 0x4010 → c.isStopped = false → shows (rejects seen)) ∧
    (host → upper → at_ = 0x4010 → c.isStopped = true → shows (if (all c.dview y).getLsbD 0
      then seen.setCore core { seen.coreAt core with zread := false } else seen)) ∧
    (host → odd → exec (.debugViewWrite core off bytes v) s = .next (rejects s)) ∧
    (host → lower → exec (.debugViewRead core off 4) s =
      .next (n.setCore core { c with dview := again y c.dview, zread := c.zread || beyond })) ∧
    (host → upper → latched c.dview → exec (.debugViewRead core off 4) s =
      .next (n.setCore core { c with dview := rest y c.dview, zread := c.zread || beyond }))

/-- R164, R170 to R172, R277, R281, R303, R304, R306, R317, R318, R323 and logs 5, 45, 54 and 55: what the Reeve and the
front end of a die do. A good packet is committed, moves RIDX, which is published at RIDXADDR, and a bad one
takes its queue to ERROR with its reason in a handler packet or a report; slices, instances, stalled ring
producers and reservations time out; dispatch stops and is rebuilt from what the journals' rings hold; a
silent Reeve is halted, and Reeve and supervisor are loaded again once bring-up has loaded them. What bytes of
a launch journal hold that no entry wrote is left open (log 5). That a WATCHDOG restarts the count of its instance is the model's choice of log
54, what the rebuilt nodes take beside the journals that of log 45, and which slice a queue has that is no
launch queue that of log 55. -/
def Obligations.ReeveAndParserResults : Prop :=
  ∀ (die q core plot budget ticket uid held pa : Nat) (root : BitVec 40) (b : List Byte) (i : Inst) (img : Image)
    (victim : Bool) (s t : State),
    let d := s.dieAt die
    let w := s.wqAt die q
    let up : Prop := d.reeve.up = true
    let exp := w.ridx.toNat / 2 ^ w.pktlog % 65536
    let a := (fld w.desc 128 64 + 64 * (w.ridx.toNat % 2 ^ w.pktlog)) % 2 ^ 64
    let r : BitVec 512 := .ofNat 512 (ofBytes b)
    let hd : Word := r.setWidth 64
    let mine : Prop := d.parser.cur = some q
    let slice := if q < 16 then (d.lq.get {} q).tSlice else d.reeve.slices.get 1000 q
    let p := s.setDie die { d with parser := ⟨some q, if d.parser.cur == some q then d.parser.usedNs else 0⟩ }
    let read : Prop := d.serving = some q ∧ (mine → d.parser.usedNs < slice) ∧
      (p.dieAt die).roots.get none w.asid.toNat = some root ∧ p.readAs w.asid root true a 64 = some b
    let whole : Prop := fld r 0 8 < 0xF0 ∧ 1 ≤ fld r 8 8 ∧ fld r 8 8 ≤ 8
    let pushed := (p.putQueue die q { w with ents := w.ents ++ [.resv 0 0] }).commitAt die q w.ents.length r false
    let x := pushed.wqAt die q
    let moved := pushed.setWq die q { x with ridx := x.ridx + 1 }
    let bad (s : State) (reason : Nat) (hd : Word) : State :=
      let w := s.wqAt die q
      let s := s.setWq die q { w with state := .error }
      let y := s.wqAt die w.sibling
      if y.takes then (s.putQueue die w.sibling { y with ents := y.ents ++ [.resv 0 0] }).commitAt die w.sibling
        y.ents.length (handlerPacket q reason w.ridx hd exp s.mtime) false
      else s.report die (.parser q reason)
    let packet (t : State) : Prop := exec (.parserPacket die q) s = .next t
    let e := s.on core .C
    let k := (BitVec.ofNat 32 ticket - w.head).toNat
    let set (d : Die) : Out := .next (s.setDie die d)
    let c := s.coreAt core
    let halted : Die := { d with stopped := true, reeve := { d.reeve with up := false, fresh := false } }
    let d1 : Die := { d with jlog := d.jlog.map fun e => s.jentAt e.addr, llog := d.llog.filterMap s.lentAt }
    let blank := s.setDie die { d1 with rot := [], nodes := [] }
    let loads : Prop := 4 ≤ s.fw.stage
    let rebuilt := (d1.llog.foldl (fun s e => s.rebuild die e) blank).rejoin die
    let plot_ := s.plotAt plot
    (read → fld r 16 16 = exp → whole → w.full = false → x.ridxAddr = 0 → packet moved) ∧
    (read → fld r 16 16 = exp → whole → w.full = false → x.ridxAddr ≠ 0 → moved.publishAt x root = some pa →
      packet (moved.wr pa (toBytes 8 (x.ridx + 1).toNat))) ∧
    (read → fld r 16 16 = exp → whole → w.full = false → x.ridxAddr ≠ 0 → moved.publishAt x root = none →
      packet (bad moved 5 hd)) ∧
    (read → fld r 16 16 = exp → whole → w.full = true → packet p) ∧
    (read → (fld r 16 16 + 1) % 65536 = exp → packet p) ∧
    (read → fld r 16 16 ≠ exp → (fld r 16 16 + 1) % 65536 ≠ exp → packet (bad p 3 hd)) ∧
    (read → fld r 16 16 = exp → 0xF0 ≤ fld r 0 8 → packet (bad p 1 hd)) ∧
    (read → fld r 16 16 = exp → fld r 0 8 < 0xF0 → fld r 8 8 = 0 ∨ 8 < fld r 8 8 → packet (bad p 2 hd)) ∧
    (d.serving = some q → (mine → d.parser.usedNs < slice) →
      ((p.dieAt die).roots.get none w.asid.toNat = none ∨ ((p.dieAt die).roots.get none w.asid.toNat = some root ∧
        p.readAs w.asid root true a 64 = none)) → packet (bad p 4 0)) ∧
    (d.serving = some q → mine → slice ≤ d.parser.usedNs → packet s ∧
      exec (.parserSliceExpiry die) s = set { d with parser := ⟨nextIn d.ringQueues q, 0⟩ }) ∧
    (e.self.act = some i → i.phase.live = true → (e.dieAt (dieOf core)).reeve.up = true →
      (e.lqAt i.launch.qdie i.launch.q).tInst ≤ i.ranNs → exec (.watchdogTimeout core) s =
        .next ((e.setInst { i with ranNs := 0 }).raise .C ⟨.watchdog, s.mtime⟩)) ∧
    (victim = true → c.main = some i → c.pre.isSome = true → s.stalledOut core i = true →
      s.abortVictim core i = .ok t → exec (.ringProducerStallTimeout core victim) s = .next t) ∧
    (victim = false → c.act = some i → i.phase.isStopped = true → s.stalledOut core i = true →
      s.quiet core = true → s.abort core = .ok t → exec (.ringProducerStallTimeout core victim) s = .next t) ∧
    (up → w.ents[k]? = some (.resv uid held) → s.resvLimit die uid ≤ held →
      exec (.reservationTimeout die q ticket) s = .next (State.endIfDone ((s.putQueue die q
        { w with ents := w.ents.set k (.rec_ 0 true false) }).countSent die w.asid 1) die q)) ∧
    (die < 8 → exec (.dispatchStop die false) s = set { d with stopped := true, reeve := { d.reeve with fresh := false } } ∧
      exec (.dispatchStop die true) s = set halted) ∧
    (d.stopped = true → up → d.reeve.fresh = true →
      (rebuilt.setDie die { rebuilt.dieAt die with stopped := false }).settleGraphs = .ok t →
      exec (.journalReplay die) s = .next t) ∧
    (up → 10000000 ≤ d.reeve.beatNs → exec (.reeveHeartbeatTimeout die) s = set halted) ∧
    (loads → d.reeve.up = false ∨ (d.stopped = true ∧ d.reeve.fresh = false) → s.fw.load .reeve = some img →
      exec (.reeveReload die) s = .next ((s.setDie die { d with
        reeve := { up := true, fresh := true, cpu := .loaded reeveBytes img } }).givePolicy die)) ∧
    (loads → plot_.supUp = false → s.fw.load .supervisor = some img → exec (.supervisorReload plot) s =
      .next (s.setPlot plot { plot_ with supUp := true, ready := true, sup := .loaded supervisorBytes img,
                                         perf := if plot_.ready then plot_.perf else [] })) ∧
    (∀ n k, (Cpu32.loaded n img).mem.get 0 k = if imgLoadAddr img ≤ k ∧ k < n
      then (imgPayload img).getD (k - imgLoadAddr img) 0 else 0) ∧
    (plot < 64 → budget ≤ 12 → (s.dieAt (plot / 8)).reeve.up = true → exec (.draughtBudgetSet plot budget) s =
      .next (s.setPlot plot { plot_ with budget := budget }))

/-- R109, R307 to R310 and logs 10, 36 and 53: the host die, once its harts run. A command on a free page
completes with the result its instruction would have for a privileged job, or with an error code; a page in
use answers 3; a read of HSTAT returns the result and frees the page. Loads, stores and atomics of a hart act
on HBM where its mode and its translation put them, and what they return goes to the hart's register; a page
that is not mapped for it is a page fault, a place that its mode may not reach an access fault, and the hart
takes each as a trap. That an access acts at once and a `FENCE` has nothing to wait for is the model's choice of
log 10, how the registers of RV64GC rule translation, traps and results that of log 36, and what other accesses
of a page do that of log 53. A turn of a hart takes its interrupt or the fault of its fetch, or runs one
instruction: one that reaches no memory changes that hart's processor and nothing else, and a load or store is the
access, after which the pc moves on where no exception was taken. A trap to machine mode saves the pc, the cause,
the value and the mode, and masks interrupts; a control register is read before it is written. -/
def Obligations.HostResults : Prop :=
  ∀ (hart rd n a off pa wd len cause csr : Nat) (sg ok intr : Bool) (v w : Word) (code : BitVec 2) (s t : State),
    let x := s.hartAt hart
    let c := x.cpu
    let reg (r : Nat) : Word := c.x.get 0 r
    let field (lo k : Nat) : Nat := wd / 2 ^ lo % 2 ^ k
    let trap := c.trap cause v intr
    let was := c.mstatus
    let now := trap.mstatus
    let past (t : State) : Out :=
      let y := t.hartAt hart
      .next (if y.afault || y.pfault then t
        else t.setHart hart { y with cpu := { y.cpu with pc := y.cpu.pc + BitVec.ofNat 64 len } })
    let next (r : Nat) (v : Word) : HartCpu := ({ c with pc := c.pc + BitVec.ofNat 64 len }).put r 8 false v
    let ran : Out := s.hartExec hart wd wd len
    let cmds : List (Nat × Instr) := [(1, .cmdPush hart), (2, .cmdPop hart), (3, .cmdStat hart),
      (4, .cmdCreate hart), (5, .cmdRestart hart), (6, .cmdDestroy hart), (7, .cmdRead hart)]
    let put (y : Hart) : Out := .next (s.setHart hart y)
    let did (y : Hart) : Hart := { y with afault := false, pfault := false }
    let page := s.setHart hart (did x)
    let trapped (cause a : Nat) (page : Bool) : Out := put { x with
      afault := !page, pfault := page, cpu := x.cpu.trap cause (.ofNat 64 a) }
    let result (n : Nat) (sg : Bool) (r : Nat) (y : Hart) : Hart :=
      { did y with rdata := .ofNat 64 r, cpu := x.cpu.put rd n sg (.ofNat 64 r) }
    let loads (n : Nat) : HartOp := .load rd sg a n
    let old := ofBytes (s.rd pa n)
    let does (op : HartOp) (t : Out) : Prop := exec (.hostHartAccess hart op) s = t
    let reads : Prop := s.hartAddr hart false a n = .ok pa ∧ pa + n ≤ 0x018000000000
    let writes : Prop := s.hartAddr hart true a n = .ok pa ∧ pa + n ≤ 0x018000000000
    let aligned : Prop := (n = 4 ∨ n = 8) ∧ pa % n = 0
    let amo (op : HartOp) (f : Nat → Nat) : Prop := writes → aligned → does op
      (.next ((s.wr pa (toBytes n (f old))).setHart hart (result n true old x)))
    let key (x : Nat) : Int := if sg then (BitVec.ofNat (8 * n) x).toInt else (x % 2 ^ (8 * n) : Nat)
    let own := 0x020000000000 + 0x1000 * hart
    let seen (e : Prop) : Prop := x.cpu.eff ≠ .user → e
    hart < 64 → s.hartsRun = true →
    seen (∀ k ∈ cmds, (x.pending = true → exec k.2 s = put { x with herr := 3 }) ∧
      (x.pending = false → s.hostOp k.1 x.die.toNat x.queue.toNat x.arg = .ok (w, t) →
        exec k.2 s = .next (t.setHart hart { x with hstat := w, pending := true })) ∧
      (x.pending = false → s.hostOp k.1 x.die.toNat x.queue.toNat x.arg = .error code →
        exec k.2 s = put { x with hstat := .ofNat 64 (2 ^ 63), herr := code, pending := true }) ∧
      (v.toNat % 8 = k.1 → exec (.commandPageWrite hart 0x10 v) s = exec k.2 page)) ∧
    seen (exec (.hstatRead hart) s = put { did x with rdata := x.hstat, pending := false }) ∧
    seen (exec (.commandPageWrite hart 0x00 v) s =
      .next (page.setHart hart { did x with die := v.extractLsb' 11 3, queue := v.setWidth 11 })) ∧
    seen (exec (.commandPageWrite hart 0x08 v) s = .next (page.setHart hart { did x with arg := v })) ∧
    seen (exec (.commandPageWrite hart 0x20 v) s =
      .next (page.setHart hart { did x with herr := x.herr &&& ~~~(v.setWidth 2) })) ∧
    (0x1000 ≤ off ∨ x.cpu.eff = .user → exec (.commandPageWrite hart off v) s = trapped 7 (own + off) false) ∧
    (x.cpu.eff = .user → exec (.hstatRead hart) s = trapped 5 (own + 0x18) false ∧
      ∀ k ∈ cmds, exec k.2 s = trapped 7 (own + 0x10) false) ∧
    (x.cpu.eff = .machine ∨ fld x.cpu.satp 60 4 ≠ 10 → a + n ≤ 2 ^ 64 → 0 < n → s.hartAddr hart ok a n = .ok a) ∧
    (n ≤ 8 → reads → does (loads n) (put (result n sg old x))) ∧
    (n ≤ 8 → writes → does (.store a n v) (.next ((s.wr pa (toBytes n v.toNat)).setHart hart (did x)))) ∧
    (n ≤ 8 → s.hartAddr hart false a n = .error .page →
      does (loads n) (trapped 13 a true)) ∧
    (n ≤ 8 → s.hartAddr hart true a n = .error .page →
      does (.store a n v) (trapped 15 a true)) ∧
    (s.hartAddr hart true a 8 = .ok (own + off) → off < 0x1000 → off % 8 = 0 → x.cpu.eff ≠ .user →
      does (.store a 8 v) (exec (.commandPageWrite hart off v) s)) ∧
    (s.hartAddr hart false a 8 = .ok (own + 0x18) → x.cpu.eff ≠ .user →
      does (loads 8) (put { result 8 sg x.hstat.toNat x with pending := false })) ∧
    (n ≤ 8 → s.hartAddr hart false a n = .ok pa → 0x018000000000 < pa + n → x.cpu.eff = .user →
      does (loads n) (trapped 5 a false)) ∧
    (n ≤ 8 → s.hartAddr hart true a n = .ok pa → 0x018000000000 < pa + n → x.cpu.eff = .user →
      does (.store a n v) (trapped 7 a false)) ∧
    (0 < n → n ≤ 8 → s.hartAddr hart true a n = .ok pa → own + 0x1000 ≤ pa → x.cpu.eff = .supervisor →
      does (.store a n v) (trapped 7 a false)) ∧
    amo (.amoAdd rd a n v) (· + v.toNat) ∧ amo (.amoSwap rd a n v) (fun _ => v.toNat) ∧
    amo (.amoAnd rd a n v) (· &&& v.toNat) ∧
    amo (.amoOr rd a n v) (· ||| v.toNat) ∧ amo (.amoXor rd a n v) (· ^^^ v.toNat) ∧
    amo (.amoMin rd sg a n v) (fun x => if key x < key v.toNat then x else v.toNat) ∧
    amo (.amoMax rd sg a n v) (fun x => if key x < key v.toNat then v.toNat else x) ∧
    (reads → aligned → does (.loadReserved rd a n)
      (put { result n true old x with resv := some (pa, n, old) })) ∧
    (writes → aligned → ∃ ok : Bool, (ok = true → x.resv = some (pa, n, old)) ∧
      let s1 := { s with free := s.free + 1 }
      does (.storeConditional rd a n v) (.next ((if ok then s1.wr pa (toBytes n v.toNat) else s1).setHart hart
        { result 8 false (if ok then 0 else 1) x with resv := none }))) ∧
    does .fence (.next s) ∧
    (c.interrupt = some n → s.hartStep hart = put { x with cpu := c.trap n 0 true }) ∧
    (c.interrupt = none → s.hartFetch c = .error (cause, v) → s.hartStep hart = put { x with cpu := c.trap cause v }) ∧
    (c.interrupt = none → s.hartFetch c = .ok (wd, 4) → s.hartStep hart = s.hartExec hart wd wd 4) ∧
    (field 0 7 ∉ [0x03, 0x07, 0x23, 0x27, 0x2F] → ∃ f y, ran = .next ({ s with free := f }.setHart hart { x with cpu := y })) ∧
    (wd % 128 = 0x03 → field 12 3 < 7 → s.hartLoad hart (field 7 5) (reg (field 15 5) + Rv.immI wd).toNat
      (2 ^ (field 12 3 % 4)) (field 12 3 < 4) = .next t → ran = past t) ∧
    (wd % 128 = 0x23 → field 12 3 ≤ 3 → s.hartStore hart (reg (field 15 5) + Rv.immS wd).toNat (2 ^ field 12 3)
      (reg (field 20 5)) = .next t → ran = past t) ∧
    (wd % 128 = 0x13 → field 12 3 = 0 →
      ran = put { x with cpu := next (field 7 5) (reg (field 15 5) + (BitVec.ofNat 12 (field 20 12)).signExtend 64) }) ∧
    (c.mode = .machine ∨ (c.csr.get 0 (if intr then 0x303 else 0x302)).getLsbD cause = false →
      trap.mode = .machine ∧ trap.x = c.x ∧ trap.f = c.f ∧ trap.csr.get 0 0x341 = c.pc ∧ trap.csr.get 0 0x343 = v ∧
      trap.csr.get 0 0x342 = .ofNat 64 (cause + if intr then 2 ^ 63 else 0) ∧
      now.getLsbD 3 = false ∧ now.getLsbD 7 = was.getLsbD 3 ∧ now.extractLsb' 11 2 = BitVec.ofNat 2 c.mode.code ∧
      (intr = false → trap.pc = c.csr.get 0 0x305 &&& ~~~3)) ∧
    (c.mode = .machine → wd % 128 = 0x73 → field 12 3 = 1 → csr = field 20 12 → csr ∈ [0x340, 0x140] →
      ∃ y, ran = .next ({ s with free := s.free + 1 }.setHart hart { x with cpu := y }) ∧
        y.csr.get 0 csr = reg (field 15 5) ∧ y.pc = c.pc + BitVec.ofNat 64 len ∧ y.mode = c.mode ∧
        (field 7 5 ≠ 0 → y.x.get 0 (field 7 5) = c.csr.get 0 csr))

/-- R313 to R316, R319 to R323 and logs 40, 57, 58 and 59: the module's management. Each operation takes effect
over an open session, and each event of firmware, heat, links and partitions, as its rule says. What the
certificates and images decide beyond their fields is the model's choice of log 40, what a bad CRC and a
fence do that of log 57, what a power operation drops that of log 58, and that one bring-up event is one
whole step that of log 59. -/
def Obligations.ModuleResults : Prop :=
  ∀ (plot part sess slot die temp port peer n off key : Nat) (cert : Cert) (o : Offer) (rec_ : CfgRecord) (img : Image)
    (input b : List Byte) (budgets : List Nat) (e : ExportEnt) (load : FlitLoad) (s t : State),
    let f := s.fw
    let open_ : Prop := ∃ x ∈ f.sessions, x.id = sess
    let good : Prop := ∃ k ∈ imgKinds, imageOk f.record k img = true
    let runs : Prop := 3 ≤ f.stage
    let p := s.ports.get {} port
    let module := (f.record.map (·.moduleNo)).getD 0
    let empty : Prop := ∀ k, k < 12 → (s.coreAt (12 * plot + k)).main = none ∧ (s.coreAt (12 * plot + k)).pre = none
    let off_ : State := { s.dropped with fw := { s.dropped.fw with powered := false } }
    let firm (f : Firmware) : Out := .next { s with fw := f }
    let part_ := if part < 64 then some part else none
    let started (t : State) (m : HMode) : Prop := t.fw.stage = f.stage + 1 ∧
      ∀ k, k < 64 → (t.hartAt k).cpu.mode = m ∧ (t.hartAt k).cpu.pc = .ofNat 64 (imgLoadAddr img)
    (plot < 64 → runs → empty → ∃ t, exec (.plotReassign plot part) s = .next t ∧
      (t.plotAt plot).part = part_ ∧ (t.plotAt plot).budget = 0 ∧
      (t.plotAt plot).ready = (s.plotAt plot).supUp ∧ ((s.plotAt plot).supUp = true → (t.plotAt plot).perf = []) ∧
      (∀ die q, some (s.lqAt die q).part ≠ part_ → (t.lqAt die q).qplots.getLsbD plot = false) ∧
      ∀ k, k < 12 → (t.coreAt (12 * plot + k)).left = {} ∧ (t.coreAt (12 * plot + k)).owner = none) ∧
    (f.record = some rec_ → f.identity = some (key, cert) → runs → offerOk rec_ f.clock o = true →
      exec (.mgmtSessionOpen o) s =
        firm { f with sessions := f.sessions ++ [⟨f.nextSess, key, cert⟩], nextSess := f.nextSess + 1 }) ∧
    (open_ → slot < 2 → good → exec (.imageUpdate sess slot img) s =
      firm { f with flash := f.flash.set none (2 * imgKind img + slot) (some img) }) ∧
    (open_ → ¬good → exec (.imageUpdate sess slot img) s = .next s) ∧
    (open_ → exec (.powerReset sess .powerOff) s = .next off_ ∧ exec (.powerReset sess .reset) s = .next s.dropped ∧
      (f.powered = false → exec (.powerReset sess .powerOn) s =
        .next { s.dropped with fw := { s.dropped.fw with powered := true } })) ∧
    (open_ → ∃ b, exec (.telemetry sess) s =
      .next { s with free := s.free + 1, fw := { f with outbox := f.outbox ++ [b] } }) ∧
    (open_ → exec (.console sess input) s = firm { f with conIn := f.conIn ++ input, conOut := [], outbox :=
      if f.conOut = [] then f.outbox else f.outbox ++ [f.conOut] }) ∧
    (f.stage < 6 → s.bringStep = (t, true) →
      exec .bringUp s = .next { t with fw := { t.fw with stage := t.fw.stage + 1 } }) ∧
    (f.stage < 6 → s.bringStep = (t, false) → exec .bringUp s =
      .next { t with fw := { t.fw with failures := t.fw.failures ++ [.bringUp (t.fw.stage + 1)] } }) ∧
    (f.stage = 0 → (f.powered && f.coolant) = false → exec .bringUp s =
      firm { f with failures := f.failures ++ [.bringUp 1] }) ∧
    (f.stage = 2 → f.load .moduleFw = some img → ∃ t, exec .bringUp s = .next t ∧ started t .machine) ∧
    (f.stage = 5 → f.load .osLoader = some img → ∃ t, exec .bringUp s = .next t ∧ started t .supervisor) ∧
    (95 < temp → (s.dieAt die).reeve.up = true → ∃ t, exec (.thermalThrottle die temp budgets) s = .next t ∧
      ∀ k, k < 8 → (t.plotAt (8 * die + k)).budget = min (s.plotAt (8 * die + k)).budget
        (budgets.getD k (s.plotAt (8 * die + k)).budget)) ∧
    (110 ≤ temp → exec (.thermalShutdown temp) s = .next off_) ∧
    exec .coolantLoss s = .next { s.dropped with fw := { s.dropped.fw with coolant := false } } ∧
    (port < 16 → p.up = true → exec (.linkFlit port false load) s =
      .next { s with ports := s.ports.set {} port { p with retries := p.retries + 1 } }) ∧
    (port < 16 → p.up = true → exec (.linkFlit port true .idle) s =
      .next { s with ports := s.ports.set {} port { p with silentNs := 0 } }) ∧
    (port < 16 → p.up = true → s.exports.get none n = some e → e.valid = true → e.writable = true →
      b.length ≤ 64 → off + b.length ≤ e.length → (s.peers.get {} p.peer).fenced = false →
      State.devWrite { s with ports := s.ports.set {} port { p with silentNs := 0 } } (e.base + off) b = .ok t →
      exec (.linkFlit port true (.write n off b)) s = .next t) ∧
    (p.up = true → 1000000 ≤ p.silentNs →
      exec (.linkDown port) s = .next { s with ports := s.ports.set {} port { p with up := false } }) ∧
    (port < 16 → peer < 1024 → peer ≠ module → 5 ≤ f.stage →
      exec (.linkUp port peer) s = .next { s with ports := s.ports.set {} port { up := true, peer := peer } }) ∧
    (runs → peer < 1024 → exec (.moduleFence peer) s =
      .next { s with peers := s.peers.set {} peer { s.peers.get {} peer with fenced := true } }) ∧
    (runs → exportEntOk n e = true → exec (.exportTableWrite n e) s = .next { s with
      exports := s.exports.set none n (some e), exportRaw := s.exportRaw.set 0 n (Config.exportBytes (some e)) })

/-- R26, R28, R118, R119, R138, R286 and log 5: the frame of the scalar instructions that run whole in their stream
and write no memory. Where one that is ready answers a next state and raised no cause, no memory, no
special or exception register, no flag and no other stream changed: its own pc, its destination and
its age queue did, and the semaphores its wait and post name (R11); `DIV` and `REM` may set DZ, a call
or return moves the return-address stack, `TAGSET` its tag, `SEMWAIT` the waiters, `WAITI` and `PAUSE` the stall,
`RDV` its stream's part and lock, `NUDGEARM` the arm bits, the watched queue and QP, `WINSET` a window, `QDROP` a
queue and its waiters, `GRWR` the granary of its die, a return from a handler the handler's state. `SVC` and
`BRK` change what stopping and entering a handler do (R138, R286). One without a result pushes nothing. -/
def Obligations.ScalarFrame : Prop :=
  ∀ (h : Head) (ty : Ty) (c : Cond) (hint : Hint) (uns acq sx sel : Bool) (sc : Fin 8) (scope : Scope) (sz : Size)
    (d : Dst) (a b e : Src) (len1 : BitVec 6) (crn : BitVec 9) (n : Fin 32) (w : Fin 8) (m : MSrc) (code : Byte)
    (q : DropQ) (st : Stream) (s s1 t : State),
    let ran (i : Instr) : Prop := s.ready i s1 ∧ exec i s = .next t ∧ s.unraised t
    let went (i : Instr) : Prop := s.ready i s1 ∧ exec i s = .next t ∧ t.inst.phase.live = true
    let i0 := s.inst
    let j := t.inst
    let die := dieOf s.core
    let sems (l : List (Fin 32)) : Prop :=
      s.str.eq = [] ∨ h.pamt = 0 → s.keepsSem t (h.wsem :: h.psem :: l)
    let results : List Instr := [.add h ty d a b, .sub h ty d a b, .mul h ty d a b, .mulh h ty d a b,
      .and h ty d a b, .or h ty d a b, .xor h ty d a b, .andn h ty d a b, .shl h ty d a b, .shr h ty d a b,
      .sra h ty d a b, .rot h ty d a b, .min h ty d a b, .max h ty d a b, .addx h sc ty d a b, .mov h ty d a,
      .clz h ty d a, .popc h ty d a, .ctz h ty d a, .not h ty d a, .neg h ty d a, .cmp h c ty d a b,
      .sel h ty d a b e, .ext h ty d a b len1, .ins h ty d a b len1, .loop h d a b,
      .ld h scope acq sx sz d a b, .csrd h d crn, .grq h d a, .semrd h d n, .wqstat h d a, .winq h d w sel,
      .cpyq h d a, .vmpop h ty d m]
    let silent : List Instr := [.nop h, .br h c hint uns a b e, .jmp h a, .jmpAbs h a, .pref h a b, .fence h scope]
    let ovf : State := s.setInst { s.inst with ovf := t.inst.ovf }
    let ras : State := s.setStr { s.str with ras := t.str.ras }
    let tag : State := s.setStr { s.str with tag := t.str.tag }
    (∀ i ∈ results, ran i → s.onlyResult t ∧ s.keepsG t d ∧ sems []) ∧
    (∀ i ∈ silent, ran i → s.onlyResult t ∧ s.keepsG t .push ∧ s.keepsAge t ∧ sems []) ∧
    (∀ i ∈ [Instr.div h ty d a b, .rem h ty d a b], ran i → ovf.onlyResult t ∧ s.keepsG t d ∧ sems [] ∧
      (t.inst.ovf = s.inst.ovf ∨ t.inst.ovf = s.inst.ovf ||| Flags.dz)) ∧
    (∀ i ∈ [Instr.call h d a, .callAbs h d a], ran i → ras.onlyResult t ∧ s.keepsG t d ∧ sems []) ∧
    (ran (.ret h a) → ras.onlyResult t ∧ s.keepsG t .push ∧ s.keepsAge t ∧ sems []) ∧
    (ran (.tagset h d a) → tag.onlyResult t ∧ s.keepsG t d ∧ sems []) ∧
    (ran (.semset h d n a) → s.onlyResult t ∧ s.keepsG t d ∧ sems [n]) ∧
    (ran (.semwait h n a) → (s.setInst { i0 with waits := j.waits }).onlyResult t ∧ s.keepsG t .push ∧ s.keepsAge t ∧
      sems [n]) ∧
    (ran (.waiti h) → (s.setInst { i0 with waiti := j.waiti }).onlyResult t ∧ s.keepsG t .push ∧ s.keepsAge t ∧
      sems []) ∧
    (ran (.pause h a) → (s.setStr { s.str with pause := t.str.pause }).onlyResult t ∧ s.keepsG t .push ∧
      s.keepsAge t ∧ sems []) ∧
    (went (.rdv h) → (s.setInst ({ i0 with phase := j.phase }.modStr s.stream fun x =>
        { x with rdv := t.str.rdv, lock := t.str.lock })).onlyResult t ∧ s.keepsG t .push ∧ s.keepsAge t ∧ sems []) ∧
    (ran (.nudgearm h d a b) → (s.setInst { i0 with arm := j.arm, watch := j.watch, qp := j.qp }).onlyResult t ∧
      s.keepsG t d ∧ sems []) ∧
    (ran (.winset h w a b e) → (s.setInst { i0 with win := j.win }).onlyResult t ∧ s.keepsG t .push ∧ s.keepsAge t ∧
      sems []) ∧
    (ran (.qdrop h .shuttle d a) → (s.setInst { i0 with shq := j.shq, timed := j.timed, waits := j.waits }).onlyResult t ∧
      s.keepsG t d ∧ sems []) ∧
    (dropStream q = some st → ran (.qdrop h q d a) → (s.setInst ({ i0 with waits := j.waits }.modStr st fun x =>
        { x with eq := (j.streams.get st).eq, eqDone := (j.streams.get st).eqDone })).onlyResult t ∧ s.keepsG t d) ∧
    (ran (.grwr h a b e) → { s with dies := t.dies }.onlyResult t ∧ s.keepsG t .push ∧ s.keepsAge t ∧ sems [] ∧
      (∀ k, k ≠ die → t.dieAt k = s.dieAt k) ∧
      { t.dieAt die with gran := [], granBad := [] } = { s.dieAt die with gran := [], granBad := [] }) ∧
    (∀ i ∈ [Instr.retf h, .nudgeret h], went i → (s.setInst { i0 with
        inhnd := j.inhnd, loomHeld := j.loomHeld, nmask := j.nmask, srcTbar := j.srcTbar,
        srcQueue := j.srcQueue }).onlyResult t ∧ j.hg = i0.hg ∧ j.hage = i0.hage ∧ sems [] ∧
      ∀ y, (j.streams.get y).g = (i0.streams.get y).g ∧ (j.streams.get y).age = (i0.streams.get y).age) ∧
    (∀ i ∈ [Instr.svc h code, .brk h code], s.ready i s1 → exec i s = .next t →
      { i0 with streams := j.streams, sem := j.sem, rings := j.rings, bad := j.bad, waits := j.waits, ldlq := j.ldlq,
                waiti := j.waiti, store := { i0.store with spad := j.store.spad, acc := j.store.acc },
                lagN := j.lagN, phase := j.phase, inhnd := j.inhnd, cause := j.cause, causeSt := j.causeSt,
                causeArg := j.causeArg, trappc := j.trappc, mprog := j.mprog, stopNs := j.stopNs } = j ∧
      t.self = ({ s.self with fpc := t.self.fpc, fcause := t.self.fcause, fstream := t.self.fstream,
                              faddr := t.self.faddr }).setAct j ∧
      ∀ y, let x := i0.streams.get y
        let z := j.streams.get y
        { x with pc := z.pc, eq := z.eq, eqDone := z.eqDone, got := z.got, pause := z.pause, join := z.join,
                 joinShq := z.joinShq, tbwait := z.tbwait, lock := z.lock } = z) ∧
    (ran (.sempost h n a) → s.onlyResult t ∧ s.keepsG t .push ∧ s.keepsAge t ∧
      (s.str.eq = [] → s.keepsSem t [h.wsem, h.psem, n]))

/-- R28, R180, R181, R188, R202, R213: the frame of the vector and furrow instructions that write no memory,
in an instance that pre-empts none. Where one that is ready answers a next state and raised no cause: an
instruction with a `%v` result changes that register only, its age queue and flags that it sets; one
with a `%m` result that mask; an `FLD`, `FSET` or `FPATCH` its furrow. No flag is ever cleared; integer
arithmetic and moves of lanes without an expanded operand, mask logic and loads set none. -/
def Obligations.VectorFrame : Prop :=
  ∀ (h : Head) (m k bank part8 : Fin 8) (c : Cond) (ty sty : Ty) (d : Dst) (md : MDst) (a b e : VSrc) (x y : Src)
    (p q : MSrc) (pol : Option Pol) (part16 : Fin 16) (kind : Fin 4) (fd : FField) (f : Fin 64) (hi w8 : Bool)
    (s s1 t : State),
    let ran (i : Instr) : Prop := s.ready i s1 ∧ s.self.pre = none ∧ exec i s = .next t ∧ s.unraised t
    let sems : Prop := s.str.eq = [] ∨ h.pamt = 0 → s.keepsSem t [h.wsem, h.psem]
    let plain : List Instr := [.vadd h m ty d a b, .vsub h m ty d a b, .vmul h m ty d a b, .vmulh h m ty d a b,
      .vmin h m ty d a b, .vmax h m ty d a b, .vand h m ty d a b, .vor h m ty d a b, .vxor h m ty d a b,
      .vshl h m ty d a b, .vshr h m ty d a b, .vmad h m ty d a b e, .vmov h m ty d a, .vshuf h m ty d a b e,
      .vslide h m ty d a b x, .vzip h m ty hi d a b, .vunzip h m ty hi d a b, .vsel h m ty d a b,
      .vunpack h m ty hi d a, .vbcast h m ty d x, .viota h m ty d p, .vld h m ty d x y, .vlds h m ty d x y,
      .vgath h m ty k d x a]
    let lanes : List Instr := plain ++ [.vadds h m ty d a b, .vsubs h m ty d a b, .vabs h m ty d a,
      .vfadd h m ty d a b, .vfsub h m ty d a b, .vfmul h m ty d a b, .vfma h m ty d a b e, .vfdiv h m ty d a b,
      .vfsqrt h m ty d a, .vfmin h m ty d a b, .vfmax h m ty d a b, .vfabs h m ty d a, .vfneg h m ty d a,
      .vfrcp h m ty d a, .vfexp2 h m ty d a, .vcvt h m ty sty pol part16 d a, .vcbx h m ty bank kind part8 d a,
      .vpack h m ty d a b, .vldexp h m ty d a b, .vredsum h m ty d a b, .vredmax h m ty d a b,
      .vredmin h m ty d a b, .vscan h m ty d a b, .vldsh h m ty w8 k pol d x]
    let logic : List Instr := [.vmskAnd h md p q, .vmskOr h md p q, .vmskXor h md p q, .vmskAndn h md p q, .vmskNot h md p]
    let masks : List Instr := logic ++ [.vcmp h m c ty md a b, .vtopk h m ty md a x]
    let store := { s.inst.store with fur := t.inst.store.fur }
    (∀ i ∈ lanes, ran i → (s.setInst { s.inst with v := t.inst.v, ovf := t.inst.ovf }).onlyResult t ∧
      s.keepsG t .push ∧ sems ∧ s.inst.ovf ||| t.inst.ovf = t.inst.ovf ∧
      ∀ n : Fin 32, d ≠ .reg n → t.inst.v.get 0 n = s.inst.v.get 0 n) ∧
    (∀ i ∈ masks, ran i → (s.setInst { s.inst with mreg := t.inst.mreg, ovf := t.inst.ovf }).onlyResult t ∧
      s.keepsG t .push ∧ sems ∧ s.inst.ovf ||| t.inst.ovf = t.inst.ovf ∧
      ∀ n : Fin 8, md ≠ .reg n → t.inst.mreg.get 0 n = s.inst.mreg.get 0 n) ∧
    (∀ i ∈ plain ++ logic, ran i → unitsOf i = [] → t.inst.ovf = s.inst.ovf) ∧
    (∀ i ∈ [Instr.fld h f x y, .fset h fd f x, .fpatch h fd f x, .fpatchMem h fd f x y], ran i →
      (s.setInst { s.inst with store := store }).onlyResult t ∧ s.keepsG t .push ∧ s.keepsAge t ∧ sems ∧
      ∀ n : Fin 64, n ≠ f → t.inst.store.fur.get 0 n = s.inst.store.fur.get 0 n)

/-- R113, R130 to R132, R151, R167, R169, R176, R202, R203, R206, R213, R251, R301: the frame of the instructions that store. The
bytes an instruction stores to are those of its width at the address its operands give, each where R301 lets
it land. Where C stores, every other byte of memory, scratchpad and accumulators reads as before; a store of
another stream enters its engine queue, and no byte changes before the write is performed (R113), which
changes its own bytes only. Nothing else changes but what a scalar instruction may, what the shuttles have still
to see (log 13), and what the clause of a form names: for `WQPOP` its queue and the count of records received, for a
tbar instruction the armed tbars and TBP, for an atomic the places at locks. It is said of an instance that
pre-empts none (`pre = none`), a tbar instruction's of one none of whose units is in its save area
(`saved = []`). An `FST`, whose 16 words are written one by one, is stated where no page is
redirected, since a word could redirect the next. -/
def Obligations.StoreFrame : Prop :=
  ∀ (core idx o n : Nat) (st : Stream) (h : Head) (m k j0 bank : Fin 8) (sel aux : Fin 16) (w8 half flag_ : Bool)
    (scope : Scope) (sz : Size) (ty : Ty) (d : Dst) (a b e : Src) (x v : VSrc) (f : Fin 64) (l : List Loc)
    (p : Performed) (s s1 t : State),
    let ran (i : Instr) : Prop := s.ready i s1 ∧ s.self.pre = none ∧ exec i s = .next t ∧ s.unraised t
    let i1 := s.inst
    let j := t.inst
    let keeps (c : List Loc) : Prop := ∀ p, p ∉ c.map s.landing → t.peek j p = s.peek i1 p
    let bytes := { i1.store with spad := j.store.spad, acc := j.store.acc }
    let put (i : Inst) : State :=
      State.setInst { s with mem := t.mem, lag := t.lag } { i with store := bytes, lagN := j.lagN }
    let lock (s : State) : State := s.setStr { s.str with lock := t.str.lock }
    let at_ (n : Nat) : Prop := s1.scalarAt .write (s1.addr h a b) n = .ok l
    let ad := s1.val h .i64 a
    let word := s1.addr h b e
    let tile := (s1.val h .n64 a).toNat
    let own : List Loc := if s.stream = .C then l else []
    let amos : List Instr := [.amoAdd h flag_ scope d a b, .amoAnd h flag_ scope d a b, .amoOr h flag_ scope d a b,
      .amoXor h flag_ scope d a b, .amoSmin h flag_ scope d a b, .amoSmax h flag_ scope d a b,
      .amoUmin h flag_ scope d a b, .amoUmax h flag_ scope d a b, .amoSwap h flag_ scope d a b,
      .amoCas h flag_ scope d a b e]
    let still : Prop := s.keepsG t .push ∧ s.keepsAge t
    let y := s.on core st
    (ran (.st h scope flag_ sz a b e) → at_ sz.bytes → (put i1).onlyResult t ∧ still ∧ keeps own) ∧
    (ran (.stu h sz a b e) → at_ sz.bytes → (lock (put i1)).onlyResult t ∧ still ∧ keeps own) ∧
    (ran (.fst h a b f) → s1.at_ .write (s1.addr h a b) 128 = .ok l → (∀ k ∈ s.cores, k.2.remapCnt = 0) →
      (put i1).onlyResult t ∧ still ∧ keeps own) ∧
    (∀ i ∈ amos, ran i → s1.scalarAt .write ad.toNat (if flag_ then 8 else 4) = .ok l →
      (put { i1 with external := j.external, ldlq := j.ldlq }).onlyResult t ∧ s.keepsG t d ∧ keeps l) ∧
    (ran (.ldl h flag_ sz d a b) →
      (lock (s.setInst { i1 with ldlq := j.ldlq })).onlyResult t ∧ s.keepsG t d ∧ keeps []) ∧
    (∀ i ∈ [Instr.vst h m ty a b x, .vsts h m ty a b x, .vscat h m ty k a v x], ran i →
      s.onlyResult t ∧ still ∧ keeps []) ∧
    (ran (.vstsh h m ty sel aux w8 j0 bank half a x) →
      (s.setInst { i1 with ovf := j.ovf }).onlyResult t ∧ still ∧ keeps []) ∧
    (s.stream ≠ .M → ran (.accld h a b e) → (put i1).onlyResult t ∧ still ∧
      keeps ((List.range 4096).map fun n => .acc (4096 * tile + n))) ∧
    (s.stream ≠ .M → ran (.accst h a b e) → s1.at_ .write word 4096 = .ok l →
      (put i1).onlyResult t ∧ still ∧ keeps l) ∧
    (ran (.wqpop h flag_ d a b) → s1.at_ .write (s1.val h .i64 b).toNat 64 = .ok l → s1.queueOpd h a = .ok n →
      { put { i1 with external := j.external } with dies := t.dies }.onlyResult t ∧ s.keepsG t d ∧ keeps l ∧
        (∀ k, k ≠ dieOf s.core → t.dieAt k = s.dieAt k) ∧
        { t.dieAt (dieOf s.core) with wq := [], recv := [] } = { s.dieAt (dieOf s.core) with wq := [], recv := [] } ∧
        ∀ k, k ≠ n → t.wqAt (dieOf s.core) k = s.wqAt (dieOf s.core) k) ∧
    (ran (.wqctlRead h d a b) → s1.at_ .write (s1.val h .i64 b).toNat 64 = .ok l →
      (put i1).onlyResult t ∧ s.keepsG t d ∧ keeps l) ∧
    (∀ i ∈ [Instr.tbarm h flag_ w8 d a b e, .tbwait h d a b, .tbarrive h a b e], ran i → i1.saved = [] →
      place ad.toNat = .local_ o → (put { i1 with tbars := j.tbars, tbp := j.tbp }).onlyResult t ∧ s.keepsG t d ∧
        keeps ((List.range 16).map fun n => .spad (o + n))) ∧
    (ran (.remapset h a b e) → { s with mem := t.mem, lag := t.lag }.onlyResult t ∧ still ∧
      keeps ((List.range 16).map fun n => .hbm (s.self.remapBase.toNat * 4096 + 16 * tile + n))) ∧
    (performAt idx y.str.eq [] true = some p →
      exec (.storeWritePerformed core st idx) s = .next t → y.unraised t →
      ∀ z, z ∉ p.bytes.map (fun b => y.landing b.1) → t.peek j z = y.peek y.inst z)

/-- R113, R118, R219, R222, R233: the frame of the instructions that hand a command to an engine. Where one that is
ready answers a next state and raised no cause, no register, flag, semaphore, age queue or byte of
memory changed. Either it stalls, and every queue is the old one; or its stream's pc moved on, exactly one of the
shuttle queue, the time-sorted buffer and its stream's engine queue is the old one with one unstarted command
appended, the other two are equal, and a granary window may hold the granary (R91). -/
def Obligations.CommandFrame : Prop :=
  ∀ (h : Head) (time : Option (Fin 32)) (f : Fin 64) (p q r : Src) (sp reed acc raw fp clr : Bool) (pair : Pair)
    (ty : Ty) (pol : Pol) (bank : Fin 8) (rt : Fin 4) (d : Dst) (s s1 t : State),
    let commands : List Instr := [.fgo h f, .fgoUnf h f p, .fgoDec h f p, .cpy h time f p, .cpyUnf h time f p q,
      .cpyDec h time f p q, .cpyRed h time f p, .cpyOred h time f p q, .weave h sp reed pair f p acc raw,
      .scacc h p q, .lmodeWrap h, .lmodeSat h, .lsync h, .accclr h p q, .accaddRow h fp p q r,
      .accaddCol h fp p q r, .drain h ty pol clr p q r, .mdcopy h p q r, .cbld h bank p q, .cbq h d bank,
      .reedld h rt p q, .reedselOn h rt, .reedselOff h]
    let j := t.inst
    let base : State := s.setInst { s.inst with
      shq := j.shq, timed := j.timed, nextCmd := j.nextCmd, gran := j.gran }
    let same : Prop := j.shq = s.inst.shq ∧ j.timed = s.inst.timed ∧ t.str.eq = s.str.eq
    let one (c : Cmd) : Prop :=
      (j.shq = s.inst.shq ++ [c] ∧ j.timed = s.inst.timed ∧ t.str.eq = s.str.eq) ∨
      (j.shq = s.inst.shq ∧ j.timed = s.inst.timed ++ [c] ∧ t.str.eq = s.str.eq) ∨
      (j.shq = s.inst.shq ∧ j.timed = s.inst.timed ∧ t.str.eq = s.str.eq ++ [.cmd c])
    let frame (i : Instr) : Prop := s.readyCmd i s1 → s.self.pre = none → exec i s = .next t → s.unraised t →
      base.onlyResult t ∧ s.keepsG t .push ∧ s.keepsAge t ∧ s.keepsSem t [] ∧
        ((same ∧ t.str.pc = s.str.pc ∧ j.nextCmd = s.inst.nextCmd ∧ j.gran = s.inst.gran) ∨
          ∃ c : Cmd, c.instr = i ∧ c.st = s.stream ∧ c.started = false ∧ c.id = s.inst.nextCmd ∧
            t.str.pc = s.after i ∧ one c)
    (∀ i ∈ commands, frame i) ∧
      (s.stream = .M → frame (.accld h p q r) ∧ frame (.accst h p q r))

/-- R24, R138, R286, R289, R294: taking a cause. `SVC`, `BRK` and `OVF_TRAP` enter the job's handler where
`cr.TRAPVEC` is not zero and no handler runs: the cause, stream and argument are in `cr.CAUSE`, C's place
in `cr.TRAPPC`, INHND is set, C goes to the vector and only C may issue; where no post of a stream waits for
its stores, which the entry performs, and so could overflow there, nothing stops. Any other cause writes the
fault frame, with every stream's place, and stops the instance, so that no stream issues. Either way
every stream's place, the registers and the flags stand as they were. That a queued command keeps its place
among the waiters of its semaphore is the model's choice of log 22; that a stopped stream gives back the waits
granted to an instruction that has not completed, and its places among the waiters, that of log 7. -/
def Obligations.HandlerAndFaultEntry : Prop :=
  ∀ (st : Stream) (c : Cause) (addr : Word) (arg : Byte) (s : State),
    let i := s.inst
    let t := s.raise st ⟨c, addr⟩ arg
    let j := t.inst
    let x (y : Stream) := i.streams.get y
    let z (y : Stream) := j.streams.get y
    let nothing : Prop := ∀ y, (x y).pause = none ∧ ∀ l, EqItem.post l ∉ (x y).eq
    let job : Prop := (c = .svc ∨ c = .brk ∨ c = .ovfTrap) ∧ i.trapvec ≠ 0 ∧ i.inhnd = false ∧ i.nmask = false
    s.self.act.isSome = true →
      (job → j.inhnd = true ∧ j.cause = c.code ∧ j.causeSt = .ofNat 3 st.num ∧ j.causeArg = arg ∧
        j.trappc = i.streams.c.pc ∧ j.streams.c.pc = i.trapvec ∧
        (∀ y, y ≠ .C → (z y).pc = (x y).pc ∧ (t.on t.core y).issues = false) ∧
        (nothing → j.phase = i.phase ∧ t.self.fcause = s.self.fcause ∧ t.self.fpc = s.self.fpc ∧
          t.self.faddr = s.self.faddr ∧ t.self.fstream = s.self.fstream)) ∧
      (¬job → (∃ b, j.phase = .stopped b ∧ (b = true ↔ i.phase = .draining)) ∧ j.inhnd = i.inhnd ∧
        t.self.fcause = c.code ∧ t.self.fstream = .ofNat 3 st.num ∧ t.self.faddr = addr ∧
        (∀ y, t.self.fpc.get y = (x y).pc ∧ (z y).pc = (x y).pc ∧ (t.on t.core y).issues = false) ∧
        j.cause = i.cause ∧ j.trappc = i.trappc) ∧
      (∀ y, (z y).g = (x y).g ∧ (z y).age = (x y).age ∧ (z y).pause = none ∧ (z y).join = none ∧ (z y).got = []) ∧
      j.hg = i.hg ∧ j.hage = i.hage ∧ j.v = i.v ∧ j.mreg = i.mreg ∧ j.ovf = i.ovf ∧ j.nmask = i.nmask ∧
      j.waits = i.waits.filter (fun w => !w.1.isInstr) ∧ j.ldlq = [] ∧ j.waiti = none ∧ j.shq = i.shq ∧ j.timed = i.timed ∧
      ((∀ y, (x y).stores = 0) → t.mem = s.mem ∧ j.store = i.store)

/-- R84, R85, R94 to R97, R173, R289 and log 28: where an access may not go. A misaligned scalar access is
`ALIGN`; an address that is neither canonical nor local, a local one beyond the declared scratchpad or
fetched from, a page the instance may not use that way or that maps beyond the HBM, and a write to an armed
tbar are `ACCESS`; an address without a translation is `PAGE_FAULT`, the address in `pcr.FADDR`. That `ALIGN`
is checked before the others is the model's choice of log 28. A ready load, store or atomic raises it and
does nothing else. The walk finds none where an entry is invalid, has a reserved bit, is a leaf or a
table where none may stand, or a leaf that is not aligned to its page. -/
def Obligations.ScalarAccessFaults : Prop :=
  ∀ (acc : Acc) (ad off lo n lg va table : Nat) (asid : BitVec 16) (leaf : Bool) (rest : List (Nat × Nat × Bool))
    (ent : TlbEnt) (h : Head) (scope : Scope) (flag_ sx : Bool) (sz : Size) (d : Dst) (a b e : Src) (c : Trap)
    (s s1 : State),
    let size := 2 ^ lg
    let bad (c : Cause) : Prop := s.scalarAt acc ad size = .error ⟨c, .ofNat 64 ad⟩
    let found := s.xlate s.core s.inst.launch va
    let raises (acc : Acc) (i : Instr) (ad : Nat) (n : Nat) : Prop := s.ready i s1 → s1.scalarAt acc ad n = .error c →
      exec i s = .next (s1.raise s1.stream c)
    let word := s.rdWord (table + 8 * (va / 2 ^ lo % 2 ^ n))
    let bits_ (k w : Nat) : Nat := word.toNat / 2 ^ k % 2 ^ w
    let none_ : Prop := s.walk asid va ((lo, n, leaf) :: rest) table = none
    (lg ≤ 3 → ad < 2 ^ 64 →
      (ad % size ≠ 0 → bad .align) ∧
      (ad % size = 0 → place ad = .none → bad .access) ∧
      (ad % size = 0 → place ad = .local_ off → acc = .fetch ∨ s.inst.spadLen ≤ off → bad .access) ∧
      (ad % size = 0 → place ad = .local_ off → acc = .write → s.inst.armedAt (.spad off) = true →
        off + size ≤ s.inst.spadLen → bad .access) ∧
      (ad % size = 0 → place ad = .global va → found = none → bad .pageFault) ∧
      (ad % size = 0 → place ad = .global va → found = some ent →
        (acc = .write ∧ ent.w = false) ∨ (acc = .fetch ∧ ent.x = false) ∨
          (s.inst.launch.priv = false ∧ ent.usr = false) ∨ 0x018000000000 ≤ ent.pa + (va % 2 ^ 57 - ent.va) →
        bad .access)) ∧
    raises .read (.ld h scope flag_ sx sz d a b) (s1.addr h a b) sz.bytes ∧
    raises .write (.st h scope flag_ sz a b e) (s1.addr h a b) sz.bytes ∧
    (∀ i ∈ [Instr.amoAdd h flag_ scope d a b, .amoAnd h flag_ scope d a b, .amoOr h flag_ scope d a b,
      .amoXor h flag_ scope d a b, .amoSmin h flag_ scope d a b, .amoSmax h flag_ scope d a b,
      .amoUmin h flag_ scope d a b, .amoUmax h flag_ scope d a b, .amoSwap h flag_ scope d a b,
      .amoCas h flag_ scope d a b e], raises .write i (s1.val h .i64 a).toNat (if flag_ then 8 else 4)) ∧
    (bits_ 0 1 = 0 → none_) ∧ (bits_ 2 1 ≠ 0 ∨ bits_ 6 6 ≠ 0 ∨ bits_ 52 12 ≠ 0 → none_) ∧
    (bits_ 1 1 = 1 → leaf = false → none_) ∧ (bits_ 1 1 = 1 → bits_ 12 40 % 2 ^ (lo - 12) ≠ 0 → none_) ∧
    (bits_ 1 1 = 0 → rest = [] → none_) ∧ (bits_ 1 1 = 0 → hbmEnd ≤ bits_ 12 40 * 4096 → none_)

/-- R17, R31, R43 to R45, R48, R139, R142, R143, R147, R156 and logs 6 and 17: decode faults. An instruction
of a stream that may not issue does nothing (log 6). One that its handler state makes illegal, whose place
before the others and before the wait is the model's choice of log 17, then one in a wrong stream, then a
privileged one in a job that is not privileged, then one that names a register beyond the declared
counts raises its cause with 0 in `pcr.FADDR`, before its wait, and has no other effect; any other has
no decode fault. -/
def Obligations.DecodeFaults : Prop :=
  ∀ (i : Instr) (f : Fields) (r : Fin 32) (c : Cause) (h : Head) (ty : Ty) (d : Dst) (a b : Src) (m : Fin 8)
    (x y : VSrc) (s : State), i.fields = some f →
    let op := f.op.toNat
    let st := s.stream
    let n := s.inst
    let streams : List Stream :=
      if op < 0x70 then (if 0x47 ≤ op ∧ op ≤ 0x49 then [.C] else [.C, .L, .M, .V, .S])
      else if op < 0xC0 then [.V]
      else if op = 0xC4 then [.L, .S]
      else if op < 0xE0 then [.C, .L, .S]
      else if op = 0xF1 ∨ op = 0xF2 then [.L, .M, .S] else [.M]
    let crn : Nat := match i with
      | .csrd _ _ k => k.toNat | .cswr _ _ k _ => k.toNat | .csset _ _ k _ => k.toNat | .csclr _ _ k _ => k.toNat
      | _ => 0
    let priv : Prop := op = 0x4D ∨ op = 0x4E ∨ op = 0x4F ∨ op = 0x65 ∨ 0x100 ≤ crn
    let handler : Prop := (op = 0x46 ∧ ¬(st = .C ∧ n.inhnd = true)) ∨ (op = 0x48 ∧ st = .C ∧ n.nmask = false) ∨
      ((op = 0x49 ∨ op = 0x54) ∧ st = .C ∧ (n.inhnd = true ∨ n.nmask = true))
    let names : Prop := ∃ u ∈ i.uses, n.beyond st u = true
    let fault (c : Option Cause) : Prop := s.decodeFault i = c
    (s.issues = false → exec i s = .next s) ∧
    (s.issues = true → fault (some c) → exec i s = .next (s.raise st ⟨c, 0⟩)) ∧
    (handler → fault (some .illegalOp)) ∧
    (¬handler → st ∉ streams → fault (some .streamMismatch)) ∧
    (¬handler → st ∈ streams → priv → n.launch.priv = false → fault (some .priv)) ∧
    (¬handler → st ∈ streams → (priv → n.launch.priv = true) → names → fault (some .operandClass)) ∧
    (¬handler → st ∈ streams → (priv → n.launch.priv = true) → ¬names → fault none) ∧
    (n.gcnt st ≤ r → (d = .reg r ∨ a = .reg r ∨ b = .reg r) → i = .add h ty d a b → names) ∧
    (n.vcnt ≤ r → (d = .reg r ∨ x = .reg r ∨ y = .reg r) → i = .vadd h m ty d x y → names) ∧
    (m ≠ 0 → n.mcnt ≤ m.val → i = .vadd h m ty d x y → names)

/-- R11, R12, R118, R152, R154, R289: waits and posts. An instruction of a stream's own whose semaphore is too
low, or has an earlier waiter, joins the order of that semaphore's waiters and has no effect; a wait
granted takes its amount and nothing else. A count that can be read (R302) is meant. A completion adds its post to its semaphore behind an empty
queue; one that would pass 65,535 leaves the count and stops the instance with `SEM_OVF`, which no
handler of the job takes, and the semaphore and amount in `pcr.FADDR`, the instruction completed. -/
def Obligations.WaitAndPost : Prop :=
  ∀ (i : Instr) (f : Fields) (n : Fin 32) (amt : Nat) (pc : Word) (s : State),
    let h := i.head
    let op := f.op.toNat
    let inStream : Prop := op < 0xC4 ∨ op = 0xC5 ∨ op = 0xC6 ∨ op = 0xD1
    let earlier : Prop := ∃ w ∈ s.inst.waits, w.2.1 = h.wsem
    let t := s.complete pc [(n, amt)]
    let waits : State := s.setInst { s.inst with waits := s.inst.waits ++ [(.instr s.stream, h.wsem, h.wamt.val)] }
    (i.fields = some f → inStream → s.issues = true → s.decodeFault i = none → h.wamt ≠ 0 → s.str.got = [] →
      s.inst.badAt (.sem h.wsem) = none →
      (earlier ∨ s.inst.semOf h.wsem < h.wamt.val → exec i s = .next waits) ∧
      (¬earlier → h.wamt.val ≤ s.inst.semOf h.wsem → ∃ e, s.acquire 0 h.wsem h.wamt = .ok (some e) ∧
        e.inst.semOf h.wsem + h.wamt.val = s.inst.semOf h.wsem ∧ s.keepsSem e [h.wsem] ∧ s.onlyResult e ∧
        s.keepsG e .push ∧ s.keepsAge e)) ∧
    (s.self.act.isSome = true → s.str.eq = [] → 0 < amt → s.inst.badAt (.sem n) = none →
      (s.inst.semOf n + amt ≤ 65535 → t.inst.semOf n = s.inst.semOf n + amt ∧ s.keepsSem t [n] ∧
        s.onlyResult t ∧ t.str.pc = pc) ∧
      (65535 < s.inst.semOf n + amt → s.inst.phase.live = true → ∃ u, u.inst.sem = s.inst.sem ∧ u.str.pc = pc ∧
        s.onlyResult u ∧ t = u.stop s.stream ⟨.semOvf, .ofNat 64 (2 ^ 63 + n.val * 65536 + amt)⟩))

/-- R26, R28, R29, R117, R181: what a result does. It is written to the `%g` register named, to none where that is
`%g0` or 0x40, and becomes `%a0`; every older entry moves one place and the sixteenth is lost. `%g0` reads
zero. While a handler runs in C, C's `%g24` to `%g31` and its age queue are the handler's copy, and the
program's own stand. -/
def Obligations.ResultRegisters : Prop :=
  ∀ (d : Dst) (md : MDst) (x : Word) (v : Vec) (m : MaskW) (n : Fin 32) (k : Nat) (y : Stream) (s : State),
    s.self.act.isSome = true →
    let st := s.stream
    let t := s.result d x
    let u := s.vresult d v
    let w := s.mresult md m
    let own : Prop := st = .C ∧ (s.inst.inhnd = true ∨ s.inst.nmask = true)
    let pushed (t : State) (e : Vec) : Prop :=
      t.age 0 = e ∧ (k < 15 → t.age (k + 1) = s.age k) ∧ (15 ≤ k → t.age (k + 1) = 0)
    t.inst.g st 0 = 0 ∧ (d = .reg n → n ≠ 0 → t.inst.g st n = x) ∧
      (d ≠ .reg n ∨ n = 0 → t.inst.g st n = s.inst.g st n) ∧ pushed t (x.setWidth 2048) ∧
      pushed u v ∧ (d = .reg n → u.vreg n = v) ∧ (d ≠ .reg n → u.vreg n = s.vreg n) ∧
      pushed w (m.setWidth 2048) ∧ (∀ j : Fin 8, w.mask j = if md = .reg j then m else s.mask j) ∧
      (y ≠ st → t.inst.g y n = s.inst.g y n ∧ t.inst.ages y = s.inst.ages y) ∧
      (own → (24 ≤ n → d = .reg n → t.inst.streams = s.inst.streams) ∧ (d = .push → t.inst.streams = s.inst.streams)) ∧
      (own → ∀ h : Head, 24 ≤ n → s.val h .i64 (.reg n) = s.inst.hg.get 0 n) ∧
      ∀ h : Head, ∀ j : Fin 16, s.val h .i64 (.age j) = (s.age j).setWidth 64

/-- R126: `LOOP` counts down. A ready one always produces a result: k − 1 and the jump to PC + 8 × Val(C)
where the unsigned count k is above 1, else 0 and the next instruction. B is 0x00: it is encoded so, and a
word with another B is `ILLEGAL_OP`. A body closed by `LOOP %gn, %gn, top` therefore runs k times: with the
register holding k the k-th `LOOP`, and no earlier one, falls through. -/
def Obligations.LoopRule : Prop :=
  ∀ (h : Head) (d : Dst) (a t : Src) (r : Fin 32) (k j : Nat) (w p : Word) (s s1 : State),
    let i : Instr := .loop h d a t
    let top := s1.str.pc + 8 * s1.val h .i64 t
    let count := (s1.val h .n64 a).toNat
    let closing : Prop := a = .reg r ∧ d = .reg r ∧ r ≠ 0 ∧ s1.inst.g s1.stream r = .ofNat 64 (k - j)
    (s.ready i s1 → (1 < count → exec i s = s.goesTo i top (s1.result d (.ofNat 64 (count - 1)))) ∧
      (count ≤ 1 → exec i s = s.completes i (s1.result d 0))) ∧
    (s.ready i s1 → closing → 1 ≤ k → k < 2 ^ 64 → j < k →
      (j + 1 < k → exec i s = s.goesTo i top (s1.result d (.ofNat 64 (k - (j + 1)))) ∧
        (s1.result d (.ofNat 64 (k - (j + 1)))).inst.g s1.stream r = .ofNat 64 (k - (j + 1))) ∧
      (j + 1 = k → exec i s = s.completes i (s1.result d 0))) ∧
    (i.wf = true → (encode i).toNat / 256 % 256 = 0) ∧
    (w.toNat / 2 ^ 56 = 0x24 → w.toNat / 256 % 256 ≠ 0 → decode w p = .error .illegal)

/-- R142: `NUDGERET` takes no operands, runs only in C and requires NMASK = 1. Its effect clears
`cr.NUDGESRC` and NMASK, C's names are the program's again, and C resumes at `cr.NUDGEPC`; where a
deliverable source is pending, the next nudge is delivered there before the instruction at that address
issues. It completes wherever its post does not overflow its semaphore (R11), whose count can be read. -/
def Obligations.NudgeReturnRule : Prop :=
  ∀ (h : Head) (n : Fin 32) (w p : Word) (rest : List Turn) (s s1 t : State),
    let i : Instr := .nudgeret h
    let i1 := s1.inst
    let go (e : State) (r : List Turn) : State := { e with agenda := r }
    (w.toNat / 2 ^ 56 = 0x48 → (w.toNat / 2 ^ 48 % 256 ≠ 0 ∨ w.toNat % 2 ^ 32 ≠ 0 → decode w p = .error .illegal) ∧
      ∀ i, decode w p = .ok i → ∃ h, i = .nudgeret h) ∧
    (s.issues = true → s.stream ≠ .C → exec i s = .next (s.raise s.stream ⟨.streamMismatch, 0⟩)) ∧
    (s.issues = true → s.stream = .C → s.inst.nmask = false →
      exec i s = .next (s.raise s.stream ⟨.illegalOp, 0⟩)) ∧
    (s.ready i s1 → i1.inhnd = false → (h.pamt = 0 ∨
        (s1.str.eq = [] ∧ i1.badAt (.sem h.psem) = none ∧ i1.semOf h.psem + h.pamt.val ≤ 65535)) →
      ∃ t, exec i s = .next t ∧ s.unraised t ∧
        t.inst.srcTbar = false ∧ t.inst.srcQueue = false ∧ t.inst.nmask = false ∧
        t.inst.streams.c.pc = i1.nudgepc ∧ t.inst.ages .C = i1.streams.c.age ∧
        t.inst.g .C n = (if n = 0 then 0 else i1.streams.c.g.get 0 n)) ∧
    (exec i s = .next t → t.self.act.isSome = true → t.inst.nudgeDue = true →
      step (go t (.stream t.core .C :: rest)) = .next ((go t rest).on t.core .C).deliver)

/-- R92, R150 and log 27: `GRQ` gives the start of the next refresh window of a bank at the MTIME at which it
issues, a bank number of 64 or more raises `ACCESS`, and a word with another B or C than 0x00 is
`ILLEGAL_OP`. A job that is not privileged obtains the same value by the formula of R92 from `cr.MTIME` and
`cr.GRSCHED`; for bank 37 at MTIME 1,000,018,600 both give 1,000,050,500. That the bank number stands in
`pcr.FADDR` with that `ACCESS` is the model's choice of log 27: no rule gives it. -/
def Obligations.GranaryWindowRule : Prop :=
  ∀ (h : Head) (d : Dst) (a : Src) (w p : Word) (s s1 : State),
    let i : Instr := .grq h d a
    let b := s1.val h .n64 a
    let period (s : State) : Nat := (s.csr 0x00F).toNat / 2 ^ 32
    let apart (s : State) : Nat := (s.csr 0x00F).toNat / 2 ^ 16 % 2 ^ 16
    let next (s : State) (b : Nat) : Int :=
      let m : Int := (s.csr 0x009).toNat
      m + (((apart s : Int) * b - m % period s) % period s)
    (s.ready i s1 → b.toNat < 64 → exec i s = s.completes i (s1.result d (.ofInt 64 (next s1 b.toNat)))) ∧
    (s.ready i s1 → 64 ≤ b.toNat → exec i s = .next (s1.raise s1.stream ⟨.access, b⟩)) ∧
    (s.csr 0x009 = s.mtime ∧ period s = 32000 ∧ apart s = 500 ∧ crnAssigned 0x009 = true ∧ crnAssigned 0x00F = true) ∧
    (s.mtime = 1000018600 → next s 37 = 1000050500) ∧
    (w.toNat / 2 ^ 48 = 0x4F00 → w.toNat % 2 ^ 16 ≠ 0 → decode w p = .error .illegal)

/-- R147: `TLBINV`, `GRWR`, `GRQ` and `REMAPSET` raise `PRIV` in a job that is not privileged. They run in any
stream: in a privileged job whose registers they name within its counts they have no decode fault,
whichever stream executes them. -/
def Obligations.PrivilegedInstructionRule : Prop :=
  ∀ (h : Head) (d : Dst) (a b c : Src) (s : State),
    ∀ i ∈ [Instr.tlbinv h, .tlbinvA h a b, .grwr h a b c, .grq h d a, .remapset h a b c],
      (s.issues = true → s.inst.launch.priv = false → exec i s = .next (s.raise s.stream ⟨.priv, 0⟩)) ∧
      (s.inst.launch.priv = true → (∀ n : Fin 32, s.inst.gcnt s.stream ≤ n →
        d ≠ .reg n ∧ a ≠ .reg n ∧ b ≠ .reg n ∧ c ≠ .reg n) → s.decodeFault i = none)

/-- R30, R39, R48, R97, R118, R284 and logs 1, 21 and 56: a stream's turn runs the instruction at its pc. Where
the bytes there decode, the step is that instruction's `exec` in the state whose agenda has moved on: with the
literal behind it where it has one, which is fetched only where no decode fault stands. A byte is fetched as
the core's instruction cache holds it, and as memory does where that holds no block of it. Around that the
core's TLB takes what the fetch and the instruction look up, and its misses are counted (log 56): nothing else
changes there; and what M accesses is noted with the commands of its queue that it passes (log 21). -/
def Obligations.StepRunsDecoded : Prop :=
  ∀ (core : Nat) (st : Stream) (rest : List Turn) (i0 i : Instr) (w p : Word) (s : State),
    let e0 := State.on { s with agenda := rest } core st
    let e := e0.lookUps core e0.fetchRuns
    let pc := e0.str.pc
    let runs (i : Instr) : List (Nat × Nat) := if e.reaches i then e.runs i else []
    let runsHere (i : Instr) : Prop :=
      (∀ t, exec i (e.lookUps core (runs i)) = .next t → step s = .next (e.passedBy t (runs i))) ∧
      ((∀ t, exec i (e.lookUps core (runs i)) ≠ .next t) → step s = exec i (e.lookUps core (runs i)))
    let bytesAt (n : Nat) (a x : Word) : Prop := ∃ l : List Loc, l.length = n ∧
      (∀ k, k < n → e.locByte e.core e.inst .fetch ((a.toNat + k) % 2 ^ 64) = .ok (l.getD k (.hbm 0))) ∧
      x = .ofNat 64 (ofBytes (l.map e.codeByte))
    let size := match i0.head.lit with
      | .l32 _ => 4
      | _ => 8
    (∀ pa, (∀ b ∈ e.self.icache, b.1 ≠ pa / 64) → e.codeByte (.hbm pa) = SMap.get 0 e.mem pa) ∧
    (s.agenda = .stream core st :: rest → e0.issues = true → (st = .C → e0.inst.nudgeDue = false) →
      pc.toNat % 8 = 0 → bytesAt 8 pc w → decode w 0 = .ok i0 →
        (i0.head.lit = .none → runsHere i0) ∧ (e.decodeFault i0 ≠ none → runsHere i0) ∧
        (i0.head.lit ≠ .none → e.decodeFault i0 = none → bytesAt size (pc + 8) p → decode w p = .ok i →
          runsHere i)) ∧
    (∀ l, let t := s.lookUps core l
      { t with cores := s.cores, plots := s.plots } = s ∧
        (∀ k, { t.coreAt k with tlb := [] } = { s.coreAt k with tlb := [] }) ∧
        ∀ k, { t.plotAt k with perf := [] } = { s.plotAt k with perf := [] }) ∧
    (∀ t l, (s.stream ≠ .M → s.passedBy t l = t) ∧ (s.passedBy t l = t ∨
      ∃ q, s.passedBy t l = t.setInst (t.inst.modStr .M fun x => { x with eq := q })))

/-- R1, R30, R48, R96, R97, R141, R290, R302, R317, and log 1, which is the model's own: the other turns of the agenda. An event
of the table has its meaning; time passes by as much as its turn says, and by 1 ns where no agent moves; a nudge
that is due goes before C's next instruction; a stream that may not issue does nothing; a pc that is no
multiple of 8, bytes that may not be fetched and a word that is no instruction raise their cause. A location
of a core that gets an uncorrectable error keeps it, and an instruction of a stream's own that names it, or
waits for a semaphore whose count has it, raises `ECC_UNCORR` with the location instead of its effect. A
supervisor can halt. What an event or a fetch looks up enters the TLB first (log 56). A turn by which a cache, a
granary unit, a spill ring, a handed group, a policy, a Reeve's heartbeat or step, a line of a hart, the power, the
coolant, another module, a link, the clock or the console moves leaves every core as it was but for its TLB and
instruction cache, and a read ahead but for the operation it is part of. A step of a plot supervisor changes no
core, unless it is a load or store at a core port of its plot. -/
def Obligations.AgendaTurns : Prop :=
  ∀ (core ns plot : Nat) (st : Stream) (rest : List Turn) (i : Instr) (f : Fields) (n : Inst) (spot : Spot)
    (l : List Spot) (t : Trap) (w loc : Word) (er : DecErr) (va depth k u : Nat) (ex : Option ExportEnt) (skew : Int)
    (ws : List Nat) (bytes : List Byte) (pol : Policy) (on : Bool) (en : Engine) (s s1 : State),
    let r := { s with agenda := rest }
    let calm (c : Core) : Core := { c with tlb := [], icache := [] }
    let aside : List Turn := [.tlbFill core va, .tlbDrop core k, .walkFill core va depth, .walkDrop k u,
      .codeFill core va, .codeDrop core k, .granaryError k u, .spillByte k va u, .handGroup k va u core,
      .hartLine k u on, .powerShares ws, .coolantFlow, .peerExport k u ex, .peerSkew k skew, .linkResend k,
      .setClock k u, .consoleOut bytes, .heartbeat k, .policy k pol, .policyStep (.reeve k), .supervisorHalt plot]
    let cpu := (r.plotAt plot).sup
    let e := r.on core st
    let looked := e.lookUps core e.fetchRuns
    let pc := e.str.pc
    let turn : Prop := s.agenda = .stream core st :: rest ∧ (st = .C → e.inst.nudgeDue = false)
    let fetches : Prop := turn ∧ e.issues = true ∧ pc.toNat % 8 = 0
    let there (x : Spot) : Prop := ∀ y k, x = .held y k →
      (n.streams.get y).eqDone ≤ k ∧ k < (n.streams.get y).eqDone + (n.streams.get y).eq.length
    (s.agenda = .event i :: rest → i.fields = none →
      step s = exec i (r.lookUps (r.eventRuns i).1 (r.eventRuns i).2)) ∧
    (s.agenda = .event i :: rest → i.fields ≠ none → step s = .next r) ∧
    (s.agenda = .elapse ns :: rest → ∃ u, step s = .next u ∧ u.mtime = s.mtime + .ofNat 64 ns ∧ u.mem = s.mem) ∧
    (s.agenda = [] → ∃ u, step s = .next u ∧ u.mtime = s.mtime + 1 ∧ u.mem = s.mem) ∧
    (s.agenda = .stream core .C :: rest → (r.on core .C).self.act.isSome = true →
      (r.on core .C).inst.nudgeDue = true → step s = .next (r.on core .C).deliver) ∧
    (turn → e.issues = false → step s = .next e) ∧
    (s.agenda = .coreError core spot loc :: rest → (r.coreAt core).act = some n → n.badAt spot = none → there spot →
      step s = .next (r.setCore core ((r.coreAt core).setAct { n with bad := n.bad ++ [(spot, loc)] })) ∧
        Inst.badAt { n with bad := n.bad ++ [(spot, loc)] } spot = some loc) ∧
    (spot ∈ l → (∀ x ∈ l, x ≠ spot → n.badAt x = none) → n.badAt spot = some loc →
      n.sound l = .error ⟨.eccUncorr, loc⟩) ∧
    (i.fields = some f → f.op.toNat < 0xC4 → s.issues = true → s.decodeFault i = none →
      (s.acquire 0 i.head.wsem i.head.wamt = .error t → exec i s = .next (s.raise s.stream t)) ∧
      (s.acquire 0 i.head.wsem i.head.wamt = .ok (some s1) → s1.latchBusy i = false →
        s1.inst.sound (spotsOf s1.inst i s1.stream) = .error t → exec i s = .next (s1.raise s1.stream t))) ∧
    (i.head.wamt ≠ 0 → s.str.got = [] → s.inst.badAt (.sem i.head.wsem) = some loc →
      s.acquire 0 i.head.wsem i.head.wamt = .error ⟨.eccUncorr, loc⟩) ∧
    (s.agenda = .supervisorHalt plot :: rest → (r.plotAt plot).supUp = true →
      step s = .next (r.setPlot plot { r.plotAt plot with supUp := false })) ∧
    (∀ x ∈ aside, s.agenda = x :: rest → ∃ t, step s = .next t ∧ ∀ k, calm (t.coreAt k) = calm (s.coreAt k)) ∧
    (s.agenda = .granaryRead core en u :: rest → ∃ t, step s = .next t ∧ (∀ k, k ≠ core → t.coreAt k = s.coreAt k) ∧
      ((t.coreAt core) = s.coreAt core ∨ ∃ i c p, (s.coreAt core).act = some i ∧ i.op en = some c ∧
        t.coreAt core = (s.coreAt core).setAct (i.setOp en { c with prog := p }))) ∧
    (s.agenda = .policyStep (.supervisor plot) :: rest →
      (∀ w len, cpu.fetch supervisorBytes = some (w, len) → w % 128 ≠ 0x03 ∧ w % 128 ≠ 0x23) →
      ∃ t, step s = .next t ∧ ∀ k, t.coreAt k = s.coreAt k) ∧
    (turn → e.issues = true → pc.toNat % 8 ≠ 0 → step s = .next (e.raise st ⟨.align, pc⟩)) ∧
    (fetches → looked.fetch8 pc = .error t → step s = .next (looked.raise st t)) ∧
    (fetches → looked.fetch8 pc = .ok w → decode w 0 = .error er → (opStreams (Fields.of w).op).contains st = true →
      (opPriv (Fields.of w).op (Fields.of w).b = true → e.inst.launch.priv = true) →
      step s = .next (looked.raise st ⟨match er with
        | .illegal => .illegalOp | .form => .literalForm | .opClass => .operandClass, 0⟩))

/-- R37 to R44, R207, R239: words written out field by field from the encodings decode to their
instructions: one of each group of opcodes. -/
def Obligations.DecodeSampleWords : Prop :=
  let h : Head := ⟨0, 0, 0, 0, .none⟩
  decode 0x0100000005010200 0 = .ok (.add h .i64 (.reg 5) (.reg 1) (.reg 2)) ∧
    decode 0x204800000001_02FD 0 = .ok (.br h .lt .taken false (.reg 1) (.reg 2) (.imm 0x1D)) ∧
    decode 0x307A00000402C000 0x10 =
      .ok (.ld ⟨0, 0, 0, 0, .l32 0x10⟩ .die true true .b32 (.reg 4) (.reg 2) .lit) ∧
    decode 0x500000000002E100 0 = .ok (.semwait h 2 (.imm 1)) ∧
    decode 0x7021000001020300 0 = .ok (.vadd h 1 .i32 (.reg 1) (.reg 2) (.reg 3)) ∧
    decode 0xC2080000070A0000 0 = .ok (.fset h (.base 0) 7 (.reg 10)) ∧
    decode 0xF905000000000000 0 = .ok (.reedselOn h 1) ∧ decode 0x1700000000000000 0 = .error .illegal

/-- R37 to R43: decode of encode is the instruction, for every well-formed instruction of the scalar,
control-flow and memory groups, with every operand at every value the encoding admits. -/
def Obligations.ScalarRoundTrip : Prop :=
  ∀ (i : Instr) (f : Fields), i.fields = some f → f.op.toNat < 0x40 → i.wf = true →
    decode (encode i) i.head.lit.payload = .ok i

/-- R37 to R43, R152 to R169: the same for the control-register, system, synchronisation and queue groups. -/
def Obligations.SystemRoundTrip : Prop :=
  ∀ (i : Instr) (f : Fields), i.fields = some f → 0x40 ≤ f.op.toNat → f.op.toNat < 0x70 → i.wf = true →
    decode (encode i) i.head.lit.payload = .ok i

/-- R37 to R39, R44, R178, R179: the same for the vector groups. -/
def Obligations.VectorRoundTrip : Prop :=
  ∀ (i : Instr) (f : Fields), i.fields = some f → 0x70 ≤ f.op.toNat → f.op.toNat < 0xC0 → i.wf = true →
    decode (encode i) i.head.lit.payload = .ok i

/-- R37 to R39, R45, R46, R207, R239: the same for furrows, copies and the Loom. -/
def Obligations.EngineRoundTrip : Prop :=
  ∀ (i : Instr) (f : Fields), i.fields = some f → 0xC0 ≤ f.op.toNat → i.wf = true →
    decode (encode i) i.head.lit.payload = .ok i

/-- R37 to R47: no word has a second meaning, and none that the tables do not give has one: what decodes is
well formed, and its encoding is the word, with the literal where it has one. -/
def Obligations.DecodedIsWellFormedAndUnique : Prop :=
  ∀ (w p : Word) (i : Instr), decode w p = .ok i → i.wf = true ∧ encode i = w ∧
    (∀ v, i.head.lit = .l32 v → v = p.setWidth 32) ∧ (∀ v, i.head.lit = .l64 v → v = p)

/-- R35, R161, R274: what power-on reset leaves, where the spec gives it: `pcr.FCAUSE` and `pcr.FADDR` 0, the
reserved partition kept and not in use, no remap entry; every work queue FREE without a record; and
`cr.AGE` 16 on every die. -/
def Obligations.ResetState : Prop :=
  let s := State.reset
  (∀ k, let c := s.coreAt k
      c.fcause = 0 ∧ c.faddr = 0 ∧ c.regEn = true ∧ c.pre = none ∧ c.remapCnt = 0) ∧
    (∀ die q, (s.wqAt die q).state = .free ∧ (s.wqAt die q).ents = []) ∧ ∀ die, (s.dieAt die).age = 16

/-- Log 3, the model's own: at reset the memory has its canonical form. -/
def Obligations.ResetMemoryCanonical : Prop := State.reset.memOk

/-- Log 3, the model's own: every step keeps the memory's canonical form: addresses rise strictly and no
byte is listed that an unlisted address reads as. It holds of every agent's step: a stream's instruction,
a copy, a host hart, a journal, a context save, a link. -/
def Obligations.StepKeepsMemoryCanonical : Prop :=
  ∀ s t : State, s.memOk → step s = .next t → t.memOk
end

