-- ==== Sys2Proof/Laws/SMap.lean ====
section
/-! SUPPORT. Read-after-write laws of numbered storage, and that its operations keep the canonical
form. -/

namespace Sys2Proof.Machine

section
variable {α : Type} (d : α)

@[simp] theorem SMap.get_nil (k : Nat) : SMap.get d ([] : SMap α) k = d := rfl

theorem SMap.get_cons (j : Nat) (y : α) (t : SMap α) (k : Nat) :
    SMap.get d ((j, y) :: t) k = if j = k then y else SMap.get d t k := rfl

/-- Only the entries of a number matter for what it reads as. -/
theorem SMap.get_filter (p : Nat × α → Bool) (m : SMap α) (k : Nat)
    (h : ∀ e ∈ m, e.1 = k → p e = true) : SMap.get d (m.filter p) k = SMap.get d m k := by
  induction m with
  | nil => rfl
  | cons e t ih =>
    obtain ⟨j, y⟩ := e
    have iht := ih fun e he => h e (List.mem_cons_of_mem _ he)
    by_cases hj : j = k
    · have := h (j, y) List.mem_cons_self hj
      rw [List.filter_cons_of_pos this]
      simp [SMap.get_cons, hj]
    · by_cases hp : p (j, y) = true
      · rw [List.filter_cons_of_pos hp]
        simp [SMap.get_cons, hj, iht]
      · rw [List.filter_cons_of_neg hp]
        simp [SMap.get_cons, hj, iht]

/-- A number that no entry has reads as the default. -/
theorem SMap.get_absent (m : SMap α) (k : Nat) (h : ∀ e ∈ m, e.1 ≠ k) : SMap.get d m k = d := by
  induction m with
  | nil => rfl
  | cons e t ih =>
    obtain ⟨j, y⟩ := e
    have hj : j ≠ k := h (j, y) List.mem_cons_self
    simp [SMap.get_cons, hj, ih fun e he => h e (List.mem_cons_of_mem _ he)]

theorem SMap.get_append (a b : SMap α) (k : Nat) (h : ∀ e ∈ a, e.1 ≠ k) :
    SMap.get d (a ++ b) k = SMap.get d b k := by
  induction a with
  | nil => rfl
  | cons e t ih =>
    obtain ⟨j, y⟩ := e
    have hj : j ≠ k := h (j, y) List.mem_cons_self
    simp [SMap.get_cons, hj, ih fun e he => h e (List.mem_cons_of_mem _ he)]

theorem SMap.get_append_right (a b : SMap α) (k : Nat) (h : ∀ e ∈ b, e.1 ≠ k) :
    SMap.get d (a ++ b) k = SMap.get d a k := by
  induction a with
  | nil => exact SMap.get_absent d b k h
  | cons e t ih =>
    obtain ⟨j, y⟩ := e
    by_cases hj : j = k
    · simp [SMap.get_cons, hj]
    · simp [SMap.get_cons, hj, ih]

theorem SMap.get_erase_same (m : SMap α) (k : Nat) : SMap.get d (SMap.erase m k) k = d :=
  SMap.get_absent d _ k fun e he => by simpa [SMap.erase] using (List.mem_filter.mp he).2

theorem SMap.get_erase_ne (m : SMap α) {j k : Nat} (h : k ≠ j) :
    SMap.get d (SMap.erase m j) k = SMap.get d m k :=
  SMap.get_filter d _ m k fun e _ he => by simp [he, h]

variable [DecidableEq α]

@[simp] theorem SMap.get_set_same (m : SMap α) (k : Nat) (x : α) :
    SMap.get d (SMap.set d m k x) k = x := by
  induction m with
  | nil => by_cases hx : x = d <;> simp [SMap.set, hx, SMap.get_cons]
  | cons e t ih =>
    obtain ⟨j, y⟩ := e
    by_cases hj : j < k
    · simp [SMap.set, hj, SMap.get_cons, Nat.ne_of_lt hj, ih]
    · by_cases hx : x = d
      · simp [SMap.set, hj, hx, SMap.get_erase_same]
      · simp [SMap.set, hj, hx, SMap.get_cons]

@[simp] theorem SMap.get_set_ne (m : SMap α) {j k : Nat} (x : α) (h : k ≠ j) :
    SMap.get d (SMap.set d m j x) k = SMap.get d m k := by
  induction m with
  | nil => by_cases hx : x = d <;> simp [SMap.set, hx, SMap.get_cons, h.symm]
  | cons e t ih =>
    obtain ⟨i, y⟩ := e
    by_cases hi : i < j
    · simp [SMap.set, hi, SMap.get_cons, ih]
    · by_cases hx : x = d
      · simp [SMap.set, hi, hx, SMap.get_erase_ne d _ h]
      · rw [SMap.set]
        simp only [hi, if_false, hx]
        rw [SMap.get_cons, if_neg h.symm, SMap.get_erase_ne d _ h]

/-- What a number reads as after another was set. -/
theorem SMap.get_set (m : SMap α) (j k : Nat) (x : α) :
    SMap.get d (SMap.set d m j x) k = if k = j then x else SMap.get d m k := by
  by_cases h : k = j
  · simp [h]
  · simp [h]

theorem SMap.run_keys (k : Nat) (l : List α) : ∀ e ∈ SMap.run d k l, k ≤ e.1 ∧ e.1 < k + l.length := by
  induction l generalizing k with
  | nil => intro e he; simp [SMap.run] at he
  | cons x t ih =>
    intro e he
    have : e = (k, x) ∨ e ∈ SMap.run d (k + 1) t := by
      by_cases hx : x = d
      · right; simpa [SMap.run, hx] using he
      · simpa [SMap.run, hx] using he
    rcases this with rfl | h
    · simp
    · have := ih (k + 1) e h
      simp only [List.length_cons]
      omega

theorem SMap.get_run (k : Nat) (l : List α) (n : Nat) (hn : n < l.length) :
    SMap.get d (SMap.run d k l) (k + n) = l[n] := by
  induction l generalizing k n with
  | nil => simp at hn
  | cons x t ih =>
    cases n with
    | zero =>
      by_cases hx : x = d
      · simp only [SMap.run, hx, if_true, List.getElem_cons_zero]
        exact SMap.get_absent d _ _ fun e he => by have := SMap.run_keys d (k + 1) t e he; omega
      · simp [SMap.run, hx, SMap.get_cons]
    | succ n =>
      have h : n < t.length := by simpa using hn
      have e : k + (n + 1) = k + 1 + n := by omega
      by_cases hx : x = d
      · simp [SMap.run, hx, e, ih (k + 1) n h]
      · have hk : k ≠ k + 1 + n := by omega
        simp [SMap.run, hx, e, SMap.get_cons, ih (k + 1) n h, hk]

/-- A byte of a written run. -/
theorem SMap.get_setList_in (m : SMap α) (k : Nat) (l : List α) (n : Nat) (hn : n < l.length) :
    SMap.get d (SMap.setList d m k l) (k + n) = l[n] := by
  unfold SMap.setList
  rw [SMap.get_append_right, SMap.get_append, SMap.get_run d k l n hn]
  · intro e he
    have := (List.mem_filter.mp he).2
    simp at this
    omega
  · intro e he
    have := (List.mem_filter.mp he).2
    simp at this
    omega

/-- A byte outside a written run. -/
theorem SMap.get_setList_out (m : SMap α) (k : Nat) (l : List α) (n : Nat)
    (hn : n < k ∨ k + l.length ≤ n) : SMap.get d (SMap.setList d m k l) n = SMap.get d m n := by
  unfold SMap.setList
  have hr : ∀ e ∈ SMap.run d k l, e.1 ≠ n := by
    intro e he
    have := SMap.run_keys d k l e he
    omega
  rcases hn with h | h
  · rw [SMap.get_append_right, SMap.get_append_right _ _ _ _ hr, SMap.get_filter]
    · intro e _ he
      simp [he, h]
    · intro e he
      have := (List.mem_filter.mp he).2
      simp at this
      omega
  · rw [SMap.get_append, SMap.get_filter]
    · intro e _ he
      simp [he, h]
    · intro e he
      rcases List.mem_append.mp he with h' | h'
      · have := (List.mem_filter.mp h').2
        simp at this
        omega
      · exact hr e h'

end

section
variable {α : Type} [DecidableEq α] (d : α)

/-- The canonical form: numbers strictly rise, and no entry equals the default. -/
theorem SMap.wf_iff (m : SMap α) :
    SMap.wf d m = true ↔ (m.map (·.1)).Pairwise (· < ·) ∧ ∀ e ∈ m, e.2 ≠ d := by
  induction m with
  | nil => simp [SMap.wf]
  | cons e t ih =>
    obtain ⟨j, y⟩ := e
    simp only [SMap.wf, Bool.and_eq_true, ih, bne_iff_ne, ne_eq, List.all_eq_true, decide_eq_true_eq,
      List.map_cons, List.pairwise_cons, List.mem_map, List.mem_cons, forall_eq_or_imp]
    constructor
    · rintro ⟨⟨h1, h2⟩, h3, h4⟩
      exact ⟨⟨fun n ⟨e, he, hn⟩ => hn ▸ h2 e he, h3⟩, h1, h4⟩
    · rintro ⟨⟨h2, h3⟩, h1, h4⟩
      exact ⟨⟨h1, fun e he => h2 e.1 ⟨e, he, rfl⟩⟩, h3, h4⟩

theorem SMap.wf_nil : SMap.wf d ([] : SMap α) = true := rfl

theorem SMap.wf_filter (p : Nat × α → Bool) (m : SMap α) (h : SMap.wf d m = true) :
    SMap.wf d (m.filter p) = true := by
  rw [SMap.wf_iff] at h ⊢
  refine ⟨h.1.sublist ?_, fun e he => h.2 e (List.mem_filter.mp he).1⟩
  exact List.Sublist.map _ List.filter_sublist

theorem SMap.wf_erase (m : SMap α) (k : Nat) (h : SMap.wf d m = true) :
    SMap.wf d (SMap.erase m k) = true := SMap.wf_filter d _ m h

theorem SMap.wf_clear (m : SMap α) (lo n : Nat) (h : SMap.wf d m = true) :
    SMap.wf d (SMap.clear m lo n) = true := SMap.wf_filter d _ m h

theorem SMap.set_keys (m : SMap α) (k : Nat) (x : α) :
    ∀ e ∈ SMap.set d m k x, e.1 = k ∨ e ∈ m := by
  induction m with
  | nil => intro e he; by_cases hx : x = d <;> simp_all [SMap.set]
  | cons f t ih =>
    obtain ⟨j, y⟩ := f
    intro e he
    by_cases hj : j < k
    · simp only [SMap.set, hj, if_true, List.mem_cons] at he
      rcases he with rfl | h
      · simp
      · rcases ih e h with h' | h'
        · exact .inl h'
        · exact .inr (List.mem_cons_of_mem _ h')
    · simp only [SMap.set, hj, if_false] at he
      by_cases hx : x = d
      · simp only [hx, if_true] at he
        exact .inr (List.mem_filter.mp he).1
      · simp only [hx, if_false, List.mem_cons] at he
        rcases he with rfl | h
        · exact .inl rfl
        · exact .inr (List.mem_filter.mp h).1

theorem SMap.wf_set (m : SMap α) (k : Nat) (x : α) (h : SMap.wf d m = true) :
    SMap.wf d (SMap.set d m k x) = true := by
  induction m with
  | nil => by_cases hx : x = d <;> simp [SMap.set, hx, SMap.wf]
  | cons e t ih =>
    obtain ⟨j, y⟩ := e
    have h' := (SMap.wf_iff d _).mp h
    have ht : SMap.wf d t = true := by
      rw [SMap.wf_iff]
      exact ⟨(List.pairwise_cons.mp h'.1).2, fun e he => h'.2 e (List.mem_cons_of_mem _ he)⟩
    have hlt : ∀ e ∈ t, j < e.1 := fun e he =>
      (List.pairwise_cons.mp h'.1).1 e.1 (List.mem_map.mpr ⟨e, he, rfl⟩)
    by_cases hj : j < k
    · have ih' := ih ht
      rw [SMap.wf_iff] at ih'
      simp only [SMap.set, hj, if_true]
      rw [SMap.wf_iff]
      refine ⟨?_, ?_⟩
      · rw [List.map_cons, List.pairwise_cons]
        refine ⟨?_, ih'.1⟩
        intro n hn
        obtain ⟨e, he, rfl⟩ := List.mem_map.mp hn
        rcases SMap.set_keys d t k x e he with h1 | h1
        · rw [h1]; exact hj
        · exact hlt e h1
      · intro e he
        rcases List.mem_cons.mp he with rfl | h1
        · exact h'.2 _ List.mem_cons_self
        · exact ih'.2 e h1
    · have hr := SMap.wf_erase d ((j, y) :: t) k h
      by_cases hx : x = d
      · simp [SMap.set, hj, hx, hr]
      · simp only [SMap.set, hj, if_false, hx]
        rw [SMap.wf_iff] at hr ⊢
        refine ⟨?_, ?_⟩
        · rw [List.map_cons, List.pairwise_cons]
          refine ⟨?_, hr.1⟩
          intro n hn
          obtain ⟨e, he, rfl⟩ := List.mem_map.mp hn
          have h1 := List.mem_filter.mp he
          have h2 : e.1 ≠ k := by simpa using h1.2
          rcases List.mem_cons.mp h1.1 with rfl | h3
          · simp at h2; simp; omega
          · have := hlt e h3; omega
        · intro e he
          rcases List.mem_cons.mp he with rfl | h1
          · exact hx
          · exact hr.2 e h1

theorem SMap.run_wf (k : Nat) (l : List α) : SMap.wf d (SMap.run d k l) = true := by
  induction l generalizing k with
  | nil => rfl
  | cons x t ih =>
    by_cases hx : x = d
    · simpa [SMap.run, hx] using ih (k + 1)
    · have h := ih (k + 1)
      simp only [SMap.run, hx, if_false]
      rw [SMap.wf_iff] at h ⊢
      refine ⟨?_, ?_⟩
      · rw [List.map_cons, List.pairwise_cons]
        refine ⟨?_, h.1⟩
        intro n hn
        obtain ⟨e, he, rfl⟩ := List.mem_map.mp hn
        have := SMap.run_keys d (k + 1) t e he
        omega
      · intro e he
        rcases List.mem_cons.mp he with rfl | h1
        · exact hx
        · exact h.2 e h1

theorem SMap.wf_setList (m : SMap α) (k : Nat) (l : List α) (h : SMap.wf d m = true) :
    SMap.wf d (SMap.setList d m k l) = true := by
  have h1 := (SMap.wf_iff d _).mp (SMap.wf_filter d (fun e => e.1 < k) m h)
  have h2 := (SMap.wf_iff d _).mp (SMap.run_wf d k l)
  have h3 := (SMap.wf_iff d _).mp (SMap.wf_filter d (fun e => k + l.length ≤ e.1) m h)
  have lo : ∀ e ∈ m.filter (fun e => e.1 < k), e.1 < k := fun e he => by
    simpa using (List.mem_filter.mp he).2
  have hi : ∀ e ∈ m.filter (fun e => k + l.length ≤ e.1), k + l.length ≤ e.1 := fun e he => by
    simpa using (List.mem_filter.mp he).2
  unfold SMap.setList
  rw [SMap.wf_iff]
  refine ⟨?_, ?_⟩
  · rw [List.map_append, List.map_append, List.pairwise_append, List.pairwise_append]
    refine ⟨⟨h1.1, h2.1, ?_⟩, h3.1, ?_⟩
    · intro a ha b hb
      obtain ⟨e, he, rfl⟩ := List.mem_map.mp ha
      obtain ⟨f, hf, rfl⟩ := List.mem_map.mp hb
      have := lo e he
      have := SMap.run_keys d k l f hf
      omega
    · intro a ha b hb
      obtain ⟨f, hf, rfl⟩ := List.mem_map.mp hb
      have := hi f hf
      rcases List.mem_append.mp ha with ha | ha
      · obtain ⟨e, he, rfl⟩ := List.mem_map.mp ha
        have := lo e he
        omega
      · obtain ⟨e, he, rfl⟩ := List.mem_map.mp ha
        have := SMap.run_keys d k l e he
        omega
  · intro e he
    rcases List.mem_append.mp he with he | he
    · rcases List.mem_append.mp he with he | he
      · exact h1.2 e he
      · exact h2.2 e he
    · exact h3.2 e he

theorem SMap.wf_mapVals (f : Nat → α → α) (m : SMap α) (h : SMap.wf d m = true) :
    SMap.wf d (SMap.mapVals d f m) = true := by
  rw [SMap.wf_iff] at h ⊢
  refine ⟨?_, fun e he => by simpa using (List.mem_filter.mp he).2⟩
  have hm : ((m.map fun e => (e.1, f e.1 e.2)).map (·.1)) = m.map (·.1) := by
    simp [List.map_map, Function.comp_def]
  have := h.1
  rw [← hm] at this
  exact this.sublist (List.Sublist.map _ List.filter_sublist)

end

@[simp] theorem Five.get_set_same {α : Type} (f : Five α) (st : Stream) (x : α) :
    (f.set st x).get st = x := by cases st <;> rfl

@[simp] theorem Five.get_set_ne {α : Type} (f : Five α) {st t : Stream} (x : α) (h : t ≠ st) :
    (f.set st x).get t = f.get t := by cases st <;> cases t <;> first | rfl | exact absurd rfl h

theorem Five.get_set {α : Type} (f : Five α) (st t : Stream) (x : α) :
    (f.set st x).get t = if t = st then x else f.get t := by
  by_cases h : t = st <;> simp [h]

@[simp] theorem Five.get_map {α β : Type} (f : Five α) (g : Stream → α → β) (st : Stream) :
    (f.map g).get st = g st (f.get st) := by cases st <;> rfl

end Sys2Proof.Machine
end

