-- ==== Sys2Proof/Laws/State.lean ====
section
/-! SUPPORT. One lemma per field per update of the state, and what reading a part gives after a part
was replaced. -/

namespace Sys2Proof.Machine

@[simp] theorem State.setCore_agenda (s : State) (n : Nat) (c : Core) : (s.setCore n c).agenda = s.agenda := rfl
@[simp] theorem State.setCore_core (s : State) (n : Nat) (c : Core) : (s.setCore n c).core = s.core := rfl
@[simp] theorem State.setCore_stream (s : State) (n : Nat) (c : Core) : (s.setCore n c).stream = s.stream := rfl
@[simp] theorem State.setCore_free (s : State) (n : Nat) (c : Core) : (s.setCore n c).free = s.free := rfl
@[simp] theorem State.setCore_nextUid (s : State) (n : Nat) (c : Core) : (s.setCore n c).nextUid = s.nextUid := rfl
@[simp] theorem State.setCore_mtime (s : State) (n : Nat) (c : Core) : (s.setCore n c).mtime = s.mtime := rfl
@[simp] theorem State.setCore_mem (s : State) (n : Nat) (c : Core) : (s.setCore n c).mem = s.mem := rfl
@[simp] theorem State.setCore_lag (s : State) (n : Nat) (c : Core) : (s.setCore n c).lag = s.lag := rfl
@[simp] theorem State.setCore_dies (s : State) (n : Nat) (c : Core) : (s.setCore n c).dies = s.dies := rfl
@[simp] theorem State.setCore_plots (s : State) (n : Nat) (c : Core) : (s.setCore n c).plots = s.plots := rfl
@[simp] theorem State.setCore_harts (s : State) (n : Nat) (c : Core) : (s.setCore n c).harts = s.harts := rfl
@[simp] theorem State.setCore_exports (s : State) (n : Nat) (c : Core) : (s.setCore n c).exports = s.exports := rfl
@[simp] theorem State.setCore_exportRaw (s : State) (n : Nat) (c : Core) : (s.setCore n c).exportRaw = s.exportRaw := rfl
@[simp] theorem State.setCore_peers (s : State) (n : Nat) (c : Core) : (s.setCore n c).peers = s.peers := rfl
@[simp] theorem State.setCore_ports (s : State) (n : Nat) (c : Core) : (s.setCore n c).ports = s.ports := rfl
@[simp] theorem State.setCore_fw (s : State) (n : Nat) (c : Core) : (s.setCore n c).fw = s.fw := rfl

@[simp] theorem State.setDie_agenda (s : State) (n : Nat) (d : Die) : (s.setDie n d).agenda = s.agenda := rfl
@[simp] theorem State.setDie_core (s : State) (n : Nat) (d : Die) : (s.setDie n d).core = s.core := rfl
@[simp] theorem State.setDie_stream (s : State) (n : Nat) (d : Die) : (s.setDie n d).stream = s.stream := rfl
@[simp] theorem State.setDie_free (s : State) (n : Nat) (d : Die) : (s.setDie n d).free = s.free := rfl
@[simp] theorem State.setDie_nextUid (s : State) (n : Nat) (d : Die) : (s.setDie n d).nextUid = s.nextUid := rfl
@[simp] theorem State.setDie_mtime (s : State) (n : Nat) (d : Die) : (s.setDie n d).mtime = s.mtime := rfl
@[simp] theorem State.setDie_mem (s : State) (n : Nat) (d : Die) : (s.setDie n d).mem = s.mem := rfl
@[simp] theorem State.setDie_lag (s : State) (n : Nat) (d : Die) : (s.setDie n d).lag = s.lag := rfl
@[simp] theorem State.setDie_cores (s : State) (n : Nat) (d : Die) : (s.setDie n d).cores = s.cores := rfl
@[simp] theorem State.setDie_plots (s : State) (n : Nat) (d : Die) : (s.setDie n d).plots = s.plots := rfl
@[simp] theorem State.setDie_harts (s : State) (n : Nat) (d : Die) : (s.setDie n d).harts = s.harts := rfl
@[simp] theorem State.setDie_exports (s : State) (n : Nat) (d : Die) : (s.setDie n d).exports = s.exports := rfl
@[simp] theorem State.setDie_exportRaw (s : State) (n : Nat) (d : Die) : (s.setDie n d).exportRaw = s.exportRaw := rfl
@[simp] theorem State.setDie_peers (s : State) (n : Nat) (d : Die) : (s.setDie n d).peers = s.peers := rfl
@[simp] theorem State.setDie_ports (s : State) (n : Nat) (d : Die) : (s.setDie n d).ports = s.ports := rfl
@[simp] theorem State.setDie_fw (s : State) (n : Nat) (d : Die) : (s.setDie n d).fw = s.fw := rfl

@[simp] theorem State.setPlot_agenda (s : State) (n : Nat) (p : Plot) : (s.setPlot n p).agenda = s.agenda := rfl
@[simp] theorem State.setPlot_core (s : State) (n : Nat) (p : Plot) : (s.setPlot n p).core = s.core := rfl
@[simp] theorem State.setPlot_stream (s : State) (n : Nat) (p : Plot) : (s.setPlot n p).stream = s.stream := rfl
@[simp] theorem State.setPlot_free (s : State) (n : Nat) (p : Plot) : (s.setPlot n p).free = s.free := rfl
@[simp] theorem State.setPlot_nextUid (s : State) (n : Nat) (p : Plot) : (s.setPlot n p).nextUid = s.nextUid := rfl
@[simp] theorem State.setPlot_mtime (s : State) (n : Nat) (p : Plot) : (s.setPlot n p).mtime = s.mtime := rfl
@[simp] theorem State.setPlot_mem (s : State) (n : Nat) (p : Plot) : (s.setPlot n p).mem = s.mem := rfl
@[simp] theorem State.setPlot_lag (s : State) (n : Nat) (p : Plot) : (s.setPlot n p).lag = s.lag := rfl
@[simp] theorem State.setPlot_cores (s : State) (n : Nat) (p : Plot) : (s.setPlot n p).cores = s.cores := rfl
@[simp] theorem State.setPlot_dies (s : State) (n : Nat) (p : Plot) : (s.setPlot n p).dies = s.dies := rfl
@[simp] theorem State.setPlot_harts (s : State) (n : Nat) (p : Plot) : (s.setPlot n p).harts = s.harts := rfl
@[simp] theorem State.setPlot_exports (s : State) (n : Nat) (p : Plot) : (s.setPlot n p).exports = s.exports := rfl
@[simp] theorem State.setPlot_exportRaw (s : State) (n : Nat) (p : Plot) : (s.setPlot n p).exportRaw = s.exportRaw := rfl
@[simp] theorem State.setPlot_peers (s : State) (n : Nat) (p : Plot) : (s.setPlot n p).peers = s.peers := rfl
@[simp] theorem State.setPlot_ports (s : State) (n : Nat) (p : Plot) : (s.setPlot n p).ports = s.ports := rfl
@[simp] theorem State.setPlot_fw (s : State) (n : Nat) (p : Plot) : (s.setPlot n p).fw = s.fw := rfl

@[simp] theorem State.setInst_agenda (s : State) (i : Inst) : (s.setInst i).agenda = s.agenda := rfl
@[simp] theorem State.setInst_core (s : State) (i : Inst) : (s.setInst i).core = s.core := rfl
@[simp] theorem State.setInst_stream (s : State) (i : Inst) : (s.setInst i).stream = s.stream := rfl
@[simp] theorem State.setInst_free (s : State) (i : Inst) : (s.setInst i).free = s.free := rfl
@[simp] theorem State.setInst_nextUid (s : State) (i : Inst) : (s.setInst i).nextUid = s.nextUid := rfl
@[simp] theorem State.setInst_mtime (s : State) (i : Inst) : (s.setInst i).mtime = s.mtime := rfl
@[simp] theorem State.setInst_mem (s : State) (i : Inst) : (s.setInst i).mem = s.mem := rfl
@[simp] theorem State.setInst_lag (s : State) (i : Inst) : (s.setInst i).lag = s.lag := rfl
@[simp] theorem State.setInst_dies (s : State) (i : Inst) : (s.setInst i).dies = s.dies := rfl
@[simp] theorem State.setInst_plots (s : State) (i : Inst) : (s.setInst i).plots = s.plots := rfl
@[simp] theorem State.setInst_harts (s : State) (i : Inst) : (s.setInst i).harts = s.harts := rfl
@[simp] theorem State.setInst_exports (s : State) (i : Inst) : (s.setInst i).exports = s.exports := rfl
@[simp] theorem State.setInst_exportRaw (s : State) (i : Inst) : (s.setInst i).exportRaw = s.exportRaw := rfl
@[simp] theorem State.setInst_peers (s : State) (i : Inst) : (s.setInst i).peers = s.peers := rfl
@[simp] theorem State.setInst_ports (s : State) (i : Inst) : (s.setInst i).ports = s.ports := rfl
@[simp] theorem State.setInst_fw (s : State) (i : Inst) : (s.setInst i).fw = s.fw := rfl

@[simp] theorem State.setStr_agenda (s : State) (x : StreamSt) : (s.setStr x).agenda = s.agenda := rfl
@[simp] theorem State.setStr_core (s : State) (x : StreamSt) : (s.setStr x).core = s.core := rfl
@[simp] theorem State.setStr_stream (s : State) (x : StreamSt) : (s.setStr x).stream = s.stream := rfl
@[simp] theorem State.setStr_free (s : State) (x : StreamSt) : (s.setStr x).free = s.free := rfl
@[simp] theorem State.setStr_nextUid (s : State) (x : StreamSt) : (s.setStr x).nextUid = s.nextUid := rfl
@[simp] theorem State.setStr_mtime (s : State) (x : StreamSt) : (s.setStr x).mtime = s.mtime := rfl
@[simp] theorem State.setStr_mem (s : State) (x : StreamSt) : (s.setStr x).mem = s.mem := rfl
@[simp] theorem State.setStr_lag (s : State) (x : StreamSt) : (s.setStr x).lag = s.lag := rfl
@[simp] theorem State.setStr_dies (s : State) (x : StreamSt) : (s.setStr x).dies = s.dies := rfl
@[simp] theorem State.setStr_plots (s : State) (x : StreamSt) : (s.setStr x).plots = s.plots := rfl
@[simp] theorem State.setStr_harts (s : State) (x : StreamSt) : (s.setStr x).harts = s.harts := rfl
@[simp] theorem State.setStr_exports (s : State) (x : StreamSt) : (s.setStr x).exports = s.exports := rfl
@[simp] theorem State.setStr_exportRaw (s : State) (x : StreamSt) : (s.setStr x).exportRaw = s.exportRaw := rfl
@[simp] theorem State.setStr_peers (s : State) (x : StreamSt) : (s.setStr x).peers = s.peers := rfl
@[simp] theorem State.setStr_ports (s : State) (x : StreamSt) : (s.setStr x).ports = s.ports := rfl
@[simp] theorem State.setStr_fw (s : State) (x : StreamSt) : (s.setStr x).fw = s.fw := rfl

@[simp] theorem State.setWq_agenda (s : State) (die q : Nat) (w : WQ) : (s.setWq die q w).agenda = s.agenda := rfl
@[simp] theorem State.setWq_core (s : State) (die q : Nat) (w : WQ) : (s.setWq die q w).core = s.core := rfl
@[simp] theorem State.setWq_stream (s : State) (die q : Nat) (w : WQ) : (s.setWq die q w).stream = s.stream := rfl
@[simp] theorem State.setWq_free (s : State) (die q : Nat) (w : WQ) : (s.setWq die q w).free = s.free := rfl
@[simp] theorem State.setWq_nextUid (s : State) (die q : Nat) (w : WQ) : (s.setWq die q w).nextUid = s.nextUid := rfl
@[simp] theorem State.setWq_mtime (s : State) (die q : Nat) (w : WQ) : (s.setWq die q w).mtime = s.mtime := rfl
@[simp] theorem State.setWq_mem (s : State) (die q : Nat) (w : WQ) : (s.setWq die q w).mem = s.mem := rfl
@[simp] theorem State.setWq_lag (s : State) (die q : Nat) (w : WQ) : (s.setWq die q w).lag = s.lag := rfl
@[simp] theorem State.setWq_cores (s : State) (die q : Nat) (w : WQ) : (s.setWq die q w).cores = s.cores := rfl
@[simp] theorem State.setWq_plots (s : State) (die q : Nat) (w : WQ) : (s.setWq die q w).plots = s.plots := rfl
@[simp] theorem State.setWq_harts (s : State) (die q : Nat) (w : WQ) : (s.setWq die q w).harts = s.harts := rfl
@[simp] theorem State.setWq_exports (s : State) (die q : Nat) (w : WQ) : (s.setWq die q w).exports = s.exports := rfl
@[simp] theorem State.setWq_exportRaw (s : State) (die q : Nat) (w : WQ) : (s.setWq die q w).exportRaw = s.exportRaw := rfl
@[simp] theorem State.setWq_peers (s : State) (die q : Nat) (w : WQ) : (s.setWq die q w).peers = s.peers := rfl
@[simp] theorem State.setWq_ports (s : State) (die q : Nat) (w : WQ) : (s.setWq die q w).ports = s.ports := rfl
@[simp] theorem State.setWq_fw (s : State) (die q : Nat) (w : WQ) : (s.setWq die q w).fw = s.fw := rfl

@[simp] theorem State.setNode_agenda (s : State) (die n : Nat) (x : Node) : (s.setNode die n x).agenda = s.agenda := rfl
@[simp] theorem State.setNode_core (s : State) (die n : Nat) (x : Node) : (s.setNode die n x).core = s.core := rfl
@[simp] theorem State.setNode_stream (s : State) (die n : Nat) (x : Node) : (s.setNode die n x).stream = s.stream := rfl
@[simp] theorem State.setNode_free (s : State) (die n : Nat) (x : Node) : (s.setNode die n x).free = s.free := rfl
@[simp] theorem State.setNode_nextUid (s : State) (die n : Nat) (x : Node) : (s.setNode die n x).nextUid = s.nextUid := rfl
@[simp] theorem State.setNode_mtime (s : State) (die n : Nat) (x : Node) : (s.setNode die n x).mtime = s.mtime := rfl
@[simp] theorem State.setNode_mem (s : State) (die n : Nat) (x : Node) : (s.setNode die n x).mem = s.mem := rfl
@[simp] theorem State.setNode_lag (s : State) (die n : Nat) (x : Node) : (s.setNode die n x).lag = s.lag := rfl
@[simp] theorem State.setNode_cores (s : State) (die n : Nat) (x : Node) : (s.setNode die n x).cores = s.cores := rfl
@[simp] theorem State.setNode_plots (s : State) (die n : Nat) (x : Node) : (s.setNode die n x).plots = s.plots := rfl
@[simp] theorem State.setNode_harts (s : State) (die n : Nat) (x : Node) : (s.setNode die n x).harts = s.harts := rfl
@[simp] theorem State.setNode_exports (s : State) (die n : Nat) (x : Node) : (s.setNode die n x).exports = s.exports := rfl
@[simp] theorem State.setNode_exportRaw (s : State) (die n : Nat) (x : Node) : (s.setNode die n x).exportRaw = s.exportRaw := rfl
@[simp] theorem State.setNode_peers (s : State) (die n : Nat) (x : Node) : (s.setNode die n x).peers = s.peers := rfl
@[simp] theorem State.setNode_ports (s : State) (die n : Nat) (x : Node) : (s.setNode die n x).ports = s.ports := rfl
@[simp] theorem State.setNode_fw (s : State) (die n : Nat) (x : Node) : (s.setNode die n x).fw = s.fw := rfl

@[simp] theorem State.wr_agenda (s : State) (pa : Nat) (b : List Byte) : (s.wr pa b).agenda = s.agenda := rfl
@[simp] theorem State.wr_core (s : State) (pa : Nat) (b : List Byte) : (s.wr pa b).core = s.core := rfl
@[simp] theorem State.wr_stream (s : State) (pa : Nat) (b : List Byte) : (s.wr pa b).stream = s.stream := rfl
@[simp] theorem State.wr_free (s : State) (pa : Nat) (b : List Byte) : (s.wr pa b).free = s.free := rfl
@[simp] theorem State.wr_nextUid (s : State) (pa : Nat) (b : List Byte) : (s.wr pa b).nextUid = s.nextUid := rfl
@[simp] theorem State.wr_mtime (s : State) (pa : Nat) (b : List Byte) : (s.wr pa b).mtime = s.mtime := rfl
@[simp] theorem State.wr_cores (s : State) (pa : Nat) (b : List Byte) : (s.wr pa b).cores = s.cores := rfl
@[simp] theorem State.wr_dies (s : State) (pa : Nat) (b : List Byte) : (s.wr pa b).dies = s.dies := rfl
@[simp] theorem State.wr_plots (s : State) (pa : Nat) (b : List Byte) : (s.wr pa b).plots = s.plots := rfl
@[simp] theorem State.wr_harts (s : State) (pa : Nat) (b : List Byte) : (s.wr pa b).harts = s.harts := rfl
@[simp] theorem State.wr_exports (s : State) (pa : Nat) (b : List Byte) : (s.wr pa b).exports = s.exports := rfl
@[simp] theorem State.wr_exportRaw (s : State) (pa : Nat) (b : List Byte) : (s.wr pa b).exportRaw = s.exportRaw := rfl
@[simp] theorem State.wr_peers (s : State) (pa : Nat) (b : List Byte) : (s.wr pa b).peers = s.peers := rfl
@[simp] theorem State.wr_ports (s : State) (pa : Nat) (b : List Byte) : (s.wr pa b).ports = s.ports := rfl
@[simp] theorem State.wr_fw (s : State) (pa : Nat) (b : List Byte) : (s.wr pa b).fw = s.fw := rfl

@[simp] theorem State.addFlags_agenda (s : State) (f : Flags) : (s.addFlags f).agenda = s.agenda := rfl
@[simp] theorem State.addFlags_core (s : State) (f : Flags) : (s.addFlags f).core = s.core := rfl
@[simp] theorem State.addFlags_stream (s : State) (f : Flags) : (s.addFlags f).stream = s.stream := rfl
@[simp] theorem State.addFlags_free (s : State) (f : Flags) : (s.addFlags f).free = s.free := rfl
@[simp] theorem State.addFlags_nextUid (s : State) (f : Flags) : (s.addFlags f).nextUid = s.nextUid := rfl
@[simp] theorem State.addFlags_mtime (s : State) (f : Flags) : (s.addFlags f).mtime = s.mtime := rfl
@[simp] theorem State.addFlags_mem (s : State) (f : Flags) : (s.addFlags f).mem = s.mem := rfl
@[simp] theorem State.addFlags_lag (s : State) (f : Flags) : (s.addFlags f).lag = s.lag := rfl
@[simp] theorem State.addFlags_dies (s : State) (f : Flags) : (s.addFlags f).dies = s.dies := rfl
@[simp] theorem State.addFlags_plots (s : State) (f : Flags) : (s.addFlags f).plots = s.plots := rfl
@[simp] theorem State.addFlags_harts (s : State) (f : Flags) : (s.addFlags f).harts = s.harts := rfl
@[simp] theorem State.addFlags_exports (s : State) (f : Flags) : (s.addFlags f).exports = s.exports := rfl
@[simp] theorem State.addFlags_exportRaw (s : State) (f : Flags) : (s.addFlags f).exportRaw = s.exportRaw := rfl
@[simp] theorem State.addFlags_peers (s : State) (f : Flags) : (s.addFlags f).peers = s.peers := rfl
@[simp] theorem State.addFlags_ports (s : State) (f : Flags) : (s.addFlags f).ports = s.ports := rfl
@[simp] theorem State.addFlags_fw (s : State) (f : Flags) : (s.addFlags f).fw = s.fw := rfl

@[simp] theorem State.nextFree_agenda (s : State)  : (s.nextFree).agenda = s.agenda := rfl
@[simp] theorem State.nextFree_core (s : State)  : (s.nextFree).core = s.core := rfl
@[simp] theorem State.nextFree_stream (s : State)  : (s.nextFree).stream = s.stream := rfl
@[simp] theorem State.nextFree_nextUid (s : State)  : (s.nextFree).nextUid = s.nextUid := rfl
@[simp] theorem State.nextFree_mtime (s : State)  : (s.nextFree).mtime = s.mtime := rfl
@[simp] theorem State.nextFree_mem (s : State)  : (s.nextFree).mem = s.mem := rfl
@[simp] theorem State.nextFree_lag (s : State)  : (s.nextFree).lag = s.lag := rfl
@[simp] theorem State.nextFree_cores (s : State)  : (s.nextFree).cores = s.cores := rfl
@[simp] theorem State.nextFree_dies (s : State)  : (s.nextFree).dies = s.dies := rfl
@[simp] theorem State.nextFree_plots (s : State)  : (s.nextFree).plots = s.plots := rfl
@[simp] theorem State.nextFree_harts (s : State)  : (s.nextFree).harts = s.harts := rfl
@[simp] theorem State.nextFree_exports (s : State)  : (s.nextFree).exports = s.exports := rfl
@[simp] theorem State.nextFree_exportRaw (s : State)  : (s.nextFree).exportRaw = s.exportRaw := rfl
@[simp] theorem State.nextFree_peers (s : State)  : (s.nextFree).peers = s.peers := rfl
@[simp] theorem State.nextFree_ports (s : State)  : (s.nextFree).ports = s.ports := rfl
@[simp] theorem State.nextFree_fw (s : State)  : (s.nextFree).fw = s.fw := rfl

@[simp] theorem State.on_agenda (s : State) (core : Nat) (st : Stream) : (s.on core st).agenda = s.agenda := rfl
@[simp] theorem State.on_free (s : State) (core : Nat) (st : Stream) : (s.on core st).free = s.free := rfl
@[simp] theorem State.on_nextUid (s : State) (core : Nat) (st : Stream) : (s.on core st).nextUid = s.nextUid := rfl
@[simp] theorem State.on_mtime (s : State) (core : Nat) (st : Stream) : (s.on core st).mtime = s.mtime := rfl
@[simp] theorem State.on_mem (s : State) (core : Nat) (st : Stream) : (s.on core st).mem = s.mem := rfl
@[simp] theorem State.on_lag (s : State) (core : Nat) (st : Stream) : (s.on core st).lag = s.lag := rfl
@[simp] theorem State.on_cores (s : State) (core : Nat) (st : Stream) : (s.on core st).cores = s.cores := rfl
@[simp] theorem State.on_dies (s : State) (core : Nat) (st : Stream) : (s.on core st).dies = s.dies := rfl
@[simp] theorem State.on_plots (s : State) (core : Nat) (st : Stream) : (s.on core st).plots = s.plots := rfl
@[simp] theorem State.on_harts (s : State) (core : Nat) (st : Stream) : (s.on core st).harts = s.harts := rfl
@[simp] theorem State.on_exports (s : State) (core : Nat) (st : Stream) : (s.on core st).exports = s.exports := rfl
@[simp] theorem State.on_exportRaw (s : State) (core : Nat) (st : Stream) : (s.on core st).exportRaw = s.exportRaw := rfl
@[simp] theorem State.on_peers (s : State) (core : Nat) (st : Stream) : (s.on core st).peers = s.peers := rfl
@[simp] theorem State.on_ports (s : State) (core : Nat) (st : Stream) : (s.on core st).ports = s.ports := rfl
@[simp] theorem State.on_fw (s : State) (core : Nat) (st : Stream) : (s.on core st).fw = s.fw := rfl

@[simp] theorem State.on_core' (s : State) (core : Nat) (st : Stream) : (s.on core st).core = core := rfl
@[simp] theorem State.on_stream' (s : State) (core : Nat) (st : Stream) : (s.on core st).stream = st := rfl
@[simp] theorem State.nextFree_free' (s : State) : s.nextFree.free = s.free + 1 := rfl

@[simp] theorem State.setCore_dieAt (s : State) (n : Nat) (c : Core) (k : Nat) : (s.setCore n c).dieAt k = s.dieAt k := rfl
@[simp] theorem State.setCore_plotAt (s : State) (n : Nat) (c : Core) (k : Nat) : (s.setCore n c).plotAt k = s.plotAt k := rfl

@[simp] theorem State.setDie_coreAt (s : State) (n : Nat) (d : Die) (k : Nat) : (s.setDie n d).coreAt k = s.coreAt k := rfl
@[simp] theorem State.setDie_plotAt (s : State) (n : Nat) (d : Die) (k : Nat) : (s.setDie n d).plotAt k = s.plotAt k := rfl
@[simp] theorem State.setDie_self (s : State) (n : Nat) (d : Die) : (s.setDie n d).self = s.self := rfl
@[simp] theorem State.setDie_inst (s : State) (n : Nat) (d : Die) : (s.setDie n d).inst = s.inst := rfl
@[simp] theorem State.setDie_str (s : State) (n : Nat) (d : Die) : (s.setDie n d).str = s.str := rfl

@[simp] theorem State.setPlot_coreAt (s : State) (n : Nat) (p : Plot) (k : Nat) : (s.setPlot n p).coreAt k = s.coreAt k := rfl
@[simp] theorem State.setPlot_dieAt (s : State) (n : Nat) (p : Plot) (k : Nat) : (s.setPlot n p).dieAt k = s.dieAt k := rfl
@[simp] theorem State.setPlot_self (s : State) (n : Nat) (p : Plot) : (s.setPlot n p).self = s.self := rfl
@[simp] theorem State.setPlot_inst (s : State) (n : Nat) (p : Plot) : (s.setPlot n p).inst = s.inst := rfl
@[simp] theorem State.setPlot_str (s : State) (n : Nat) (p : Plot) : (s.setPlot n p).str = s.str := rfl

@[simp] theorem State.setInst_dieAt (s : State) (i : Inst) (k : Nat) : (s.setInst i).dieAt k = s.dieAt k := rfl
@[simp] theorem State.setInst_plotAt (s : State) (i : Inst) (k : Nat) : (s.setInst i).plotAt k = s.plotAt k := rfl

@[simp] theorem State.setStr_dieAt (s : State) (x : StreamSt) (k : Nat) : (s.setStr x).dieAt k = s.dieAt k := rfl
@[simp] theorem State.setStr_plotAt (s : State) (x : StreamSt) (k : Nat) : (s.setStr x).plotAt k = s.plotAt k := rfl

@[simp] theorem State.setWq_coreAt (s : State) (die q : Nat) (w : WQ) (k : Nat) : (s.setWq die q w).coreAt k = s.coreAt k := rfl
@[simp] theorem State.setWq_plotAt (s : State) (die q : Nat) (w : WQ) (k : Nat) : (s.setWq die q w).plotAt k = s.plotAt k := rfl
@[simp] theorem State.setWq_self (s : State) (die q : Nat) (w : WQ) : (s.setWq die q w).self = s.self := rfl
@[simp] theorem State.setWq_inst (s : State) (die q : Nat) (w : WQ) : (s.setWq die q w).inst = s.inst := rfl
@[simp] theorem State.setWq_str (s : State) (die q : Nat) (w : WQ) : (s.setWq die q w).str = s.str := rfl

@[simp] theorem State.setNode_coreAt (s : State) (die n : Nat) (x : Node) (k : Nat) : (s.setNode die n x).coreAt k = s.coreAt k := rfl
@[simp] theorem State.setNode_plotAt (s : State) (die n : Nat) (x : Node) (k : Nat) : (s.setNode die n x).plotAt k = s.plotAt k := rfl
@[simp] theorem State.setNode_self (s : State) (die n : Nat) (x : Node) : (s.setNode die n x).self = s.self := rfl
@[simp] theorem State.setNode_inst (s : State) (die n : Nat) (x : Node) : (s.setNode die n x).inst = s.inst := rfl
@[simp] theorem State.setNode_str (s : State) (die n : Nat) (x : Node) : (s.setNode die n x).str = s.str := rfl

@[simp] theorem State.wr_coreAt (s : State) (pa : Nat) (b : List Byte) (k : Nat) : (s.wr pa b).coreAt k = s.coreAt k := rfl
@[simp] theorem State.wr_dieAt (s : State) (pa : Nat) (b : List Byte) (k : Nat) : (s.wr pa b).dieAt k = s.dieAt k := rfl
@[simp] theorem State.wr_plotAt (s : State) (pa : Nat) (b : List Byte) (k : Nat) : (s.wr pa b).plotAt k = s.plotAt k := rfl
@[simp] theorem State.wr_self (s : State) (pa : Nat) (b : List Byte) : (s.wr pa b).self = s.self := rfl
@[simp] theorem State.wr_inst (s : State) (pa : Nat) (b : List Byte) : (s.wr pa b).inst = s.inst := rfl
@[simp] theorem State.wr_str (s : State) (pa : Nat) (b : List Byte) : (s.wr pa b).str = s.str := rfl

@[simp] theorem State.addFlags_dieAt (s : State) (f : Flags) (k : Nat) : (s.addFlags f).dieAt k = s.dieAt k := rfl
@[simp] theorem State.addFlags_plotAt (s : State) (f : Flags) (k : Nat) : (s.addFlags f).plotAt k = s.plotAt k := rfl

@[simp] theorem State.nextFree_coreAt (s : State)  (k : Nat) : (s.nextFree).coreAt k = s.coreAt k := rfl
@[simp] theorem State.nextFree_dieAt (s : State)  (k : Nat) : (s.nextFree).dieAt k = s.dieAt k := rfl
@[simp] theorem State.nextFree_plotAt (s : State)  (k : Nat) : (s.nextFree).plotAt k = s.plotAt k := rfl
@[simp] theorem State.nextFree_self (s : State)  : (s.nextFree).self = s.self := rfl
@[simp] theorem State.nextFree_inst (s : State)  : (s.nextFree).inst = s.inst := rfl
@[simp] theorem State.nextFree_str (s : State)  : (s.nextFree).str = s.str := rfl

@[simp] theorem State.on_coreAt (s : State) (core : Nat) (st : Stream) (k : Nat) : (s.on core st).coreAt k = s.coreAt k := rfl
@[simp] theorem State.on_dieAt (s : State) (core : Nat) (st : Stream) (k : Nat) : (s.on core st).dieAt k = s.dieAt k := rfl
@[simp] theorem State.on_plotAt (s : State) (core : Nat) (st : Stream) (k : Nat) : (s.on core st).plotAt k = s.plotAt k := rfl

@[simp] theorem State.coreAt_setCore_same (s : State) (n : Nat) (c : Core) :
    (s.setCore n c).coreAt n = c := SMap.get_set_same _ _ _ _

@[simp] theorem State.coreAt_setCore_ne (s : State) {n k : Nat} (c : Core) (h : k ≠ n) :
    (s.setCore n c).coreAt k = s.coreAt k := SMap.get_set_ne _ _ _ h

@[simp] theorem State.dieAt_setDie_same (s : State) (n : Nat) (d : Die) :
    (s.setDie n d).dieAt n = d := SMap.get_set_same _ _ _ _

@[simp] theorem State.dieAt_setDie_ne (s : State) {n k : Nat} (d : Die) (h : k ≠ n) :
    (s.setDie n d).dieAt k = s.dieAt k := SMap.get_set_ne _ _ _ h

@[simp] theorem State.plotAt_setPlot_same (s : State) (n : Nat) (p : Plot) :
    (s.setPlot n p).plotAt n = p := SMap.get_set_same _ _ _ _

@[simp] theorem State.plotAt_setPlot_ne (s : State) {n k : Nat} (p : Plot) (h : k ≠ n) :
    (s.setPlot n p).plotAt k = s.plotAt k := SMap.get_set_ne _ _ _ h

@[simp] theorem State.wqAt_setWq_same (s : State) (die q : Nat) (w : WQ) :
    (s.setWq die q w).wqAt die q = w := by simp [State.wqAt, State.setWq]

@[simp] theorem State.nodeAt_setNode_same (s : State) (die n : Nat) (x : Node) :
    (s.setNode die n x).nodeAt die n = some x := by simp [State.nodeAt, State.setNode]

@[simp] theorem Core.act_setAct (c : Core) (i : Inst) : (c.setAct i).act = some i := by
  cases h : c.pre <;> simp [Core.setAct, Core.act, h]

/-- Replacing the shown instance leaves a pre-empted victim as it is. -/
theorem Core.main_setAct (c : Core) (i : Inst) (h : c.pre.isSome) : (c.setAct i).main = c.main := by
  simp [Core.setAct, h]

@[simp] theorem Core.setAct_isSome (c : Core) (i : Inst) : (c.setAct i).pre.isSome = c.pre.isSome := by
  cases h : c.pre <;> simp [Core.setAct, h]

@[simp] theorem Core.setAct_fpc (c : Core) (i : Inst) : (c.setAct i).fpc = c.fpc := by
  cases h : c.pre <;> simp [Core.setAct, h]
@[simp] theorem Core.setAct_fcause (c : Core) (i : Inst) : (c.setAct i).fcause = c.fcause := by
  cases h : c.pre <;> simp [Core.setAct, h]
@[simp] theorem Core.setAct_fstream (c : Core) (i : Inst) : (c.setAct i).fstream = c.fstream := by
  cases h : c.pre <;> simp [Core.setAct, h]
@[simp] theorem Core.setAct_faddr (c : Core) (i : Inst) : (c.setAct i).faddr = c.faddr := by
  cases h : c.pre <;> simp [Core.setAct, h]
@[simp] theorem Core.setAct_ctxbase (c : Core) (i : Inst) : (c.setAct i).ctxbase = c.ctxbase := by
  cases h : c.pre <;> simp [Core.setAct, h]
@[simp] theorem Core.setAct_regEn (c : Core) (i : Inst) : (c.setAct i).regEn = c.regEn := by
  cases h : c.pre <;> simp [Core.setAct, h]
@[simp] theorem Core.setAct_remapBase (c : Core) (i : Inst) : (c.setAct i).remapBase = c.remapBase := by
  cases h : c.pre <;> simp [Core.setAct, h]
@[simp] theorem Core.setAct_remapCnt (c : Core) (i : Inst) : (c.setAct i).remapCnt = c.remapCnt := by
  cases h : c.pre <;> simp [Core.setAct, h]
@[simp] theorem Core.setAct_rej (c : Core) (i : Inst) : (c.setAct i).rej = c.rej := by
  cases h : c.pre <;> simp [Core.setAct, h]
@[simp] theorem Core.setAct_port (c : Core) (i : Inst) : (c.setAct i).port = c.port := by
  cases h : c.pre <;> simp [Core.setAct, h]
@[simp] theorem Core.setAct_zread (c : Core) (i : Inst) : (c.setAct i).zread = c.zread := by
  cases h : c.pre <;> simp [Core.setAct, h]
@[simp] theorem Core.setAct_dview (c : Core) (i : Inst) : (c.setAct i).dview = c.dview := by
  cases h : c.pre <;> simp [Core.setAct, h]
@[simp] theorem Core.setAct_grant (c : Core) (i : Inst) : (c.setAct i).grant = c.grant := by
  cases h : c.pre <;> simp [Core.setAct, h]
@[simp] theorem Core.setAct_tlb (c : Core) (i : Inst) : (c.setAct i).tlb = c.tlb := by
  cases h : c.pre <;> simp [Core.setAct, h]
@[simp] theorem Core.setAct_icache (c : Core) (i : Inst) : (c.setAct i).icache = c.icache := by
  cases h : c.pre <;> simp [Core.setAct, h]
@[simp] theorem Core.setAct_owner (c : Core) (i : Inst) : (c.setAct i).owner = c.owner := by
  cases h : c.pre <;> simp [Core.setAct, h]
@[simp] theorem Core.setAct_left (c : Core) (i : Inst) : (c.setAct i).left = c.left := by
  cases h : c.pre <;> simp [Core.setAct, h]

@[simp] theorem State.self_setInst (s : State) (i : Inst) : (s.setInst i).self = s.self.setAct i := by
  simp [State.setInst, State.self]

@[simp] theorem State.inst_setInst (s : State) (i : Inst) : (s.setInst i).inst = i := by
  simp [State.inst]

@[simp] theorem State.str_setInst (s : State) (i : Inst) : (s.setInst i).str = i.streams.get s.stream := by
  simp [State.str]

@[simp] theorem State.coreAt_setInst_ne (s : State) (i : Inst) {k : Nat} (h : k ≠ s.core) :
    (s.setInst i).coreAt k = s.coreAt k := by simp [State.setInst, h]

@[simp] theorem State.inst_setStr (s : State) (x : StreamSt) : (s.setStr x).inst = s.inst.setStr s.stream x := by
  simp [State.setStr]

@[simp] theorem State.str_setStr (s : State) (x : StreamSt) : (s.setStr x).str = x := by
  simp [State.setStr, Inst.setStr]

@[simp] theorem State.coreAt_setStr_ne (s : State) (x : StreamSt) {k : Nat} (h : k ≠ s.core) :
    (s.setStr x).coreAt k = s.coreAt k := by simp [State.setStr, h]

@[simp] theorem State.inst_addFlags (s : State) (f : Flags) : (s.addFlags f).inst = s.inst.addFlags f := by
  simp [State.addFlags]

@[simp] theorem Inst.setStr_get_same (i : Inst) (st : Stream) (x : StreamSt) :
    (i.setStr st x).streams.get st = x := by simp [Inst.setStr]

@[simp] theorem Inst.setStr_get_ne (i : Inst) {st t : Stream} (x : StreamSt) (h : t ≠ st) :
    (i.setStr st x).streams.get t = i.streams.get t := by simp [Inst.setStr, h]

@[simp] theorem Inst.modStr_get_same (i : Inst) (st : Stream) (f : StreamSt → StreamSt) :
    (i.modStr st f).streams.get st = f (i.streams.get st) := by simp [Inst.modStr]

@[simp] theorem Inst.modStr_get_ne (i : Inst) {st t : Stream} (f : StreamSt → StreamSt) (h : t ≠ st) :
    (i.modStr st f).streams.get t = i.streams.get t := by simp [Inst.modStr, h]

@[simp] theorem Inst.setStr_uid (i : Inst) (st : Stream) (x : StreamSt) : (i.setStr st x).uid = i.uid := rfl
@[simp] theorem Inst.setStr_phase (i : Inst) (st : Stream) (x : StreamSt) : (i.setStr st x).phase = i.phase := rfl
@[simp] theorem Inst.setStr_launch (i : Inst) (st : Stream) (x : StreamSt) : (i.setStr st x).launch = i.launch := rfl
@[simp] theorem Inst.setStr_hdr (i : Inst) (st : Stream) (x : StreamSt) : (i.setStr st x).hdr = i.hdr := rfl
@[simp] theorem Inst.setStr_loops (i : Inst) (st : Stream) (x : StreamSt) : (i.setStr st x).loops = i.loops := rfl
@[simp] theorem Inst.setStr_inst (i : Inst) (st : Stream) (x : StreamSt) : (i.setStr st x).inst = i.inst := rfl
@[simp] theorem Inst.setStr_idx (i : Inst) (st : Stream) (x : StreamSt) : (i.setStr st x).idx = i.idx := rfl
@[simp] theorem Inst.setStr_v (i : Inst) (st : Stream) (x : StreamSt) : (i.setStr st x).v = i.v := rfl
@[simp] theorem Inst.setStr_mreg (i : Inst) (st : Stream) (x : StreamSt) : (i.setStr st x).mreg = i.mreg := rfl
@[simp] theorem Inst.setStr_sem (i : Inst) (st : Stream) (x : StreamSt) : (i.setStr st x).sem = i.sem := rfl
@[simp] theorem Inst.setStr_waits (i : Inst) (st : Stream) (x : StreamSt) : (i.setStr st x).waits = i.waits := rfl
@[simp] theorem Inst.setStr_rings (i : Inst) (st : Stream) (x : StreamSt) : (i.setStr st x).rings = i.rings := rfl
@[simp] theorem Inst.setStr_ovf (i : Inst) (st : Stream) (x : StreamSt) : (i.setStr st x).ovf = i.ovf := rfl
@[simp] theorem Inst.setStr_causeArg (i : Inst) (st : Stream) (x : StreamSt) : (i.setStr st x).causeArg = i.causeArg := rfl
@[simp] theorem Inst.setStr_causeSt (i : Inst) (st : Stream) (x : StreamSt) : (i.setStr st x).causeSt = i.causeSt := rfl
@[simp] theorem Inst.setStr_cause (i : Inst) (st : Stream) (x : StreamSt) : (i.setStr st x).cause = i.cause := rfl
@[simp] theorem Inst.setStr_trapvec (i : Inst) (st : Stream) (x : StreamSt) : (i.setStr st x).trapvec = i.trapvec := rfl
@[simp] theorem Inst.setStr_trappc (i : Inst) (st : Stream) (x : StreamSt) : (i.setStr st x).trappc = i.trappc := rfl
@[simp] theorem Inst.setStr_nudgevec (i : Inst) (st : Stream) (x : StreamSt) : (i.setStr st x).nudgevec = i.nudgevec := rfl
@[simp] theorem Inst.setStr_nudgepc (i : Inst) (st : Stream) (x : StreamSt) : (i.setStr st x).nudgepc = i.nudgepc := rfl
@[simp] theorem Inst.setStr_srcQueue (i : Inst) (st : Stream) (x : StreamSt) : (i.setStr st x).srcQueue = i.srcQueue := rfl
@[simp] theorem Inst.setStr_srcTbar (i : Inst) (st : Stream) (x : StreamSt) : (i.setStr st x).srcTbar = i.srcTbar := rfl
@[simp] theorem Inst.setStr_mprog (i : Inst) (st : Stream) (x : StreamSt) : (i.setStr st x).mprog = i.mprog := rfl
@[simp] theorem Inst.setStr_inhnd (i : Inst) (st : Stream) (x : StreamSt) : (i.setStr st x).inhnd = i.inhnd := rfl
@[simp] theorem Inst.setStr_nmask (i : Inst) (st : Stream) (x : StreamSt) : (i.setStr st x).nmask = i.nmask := rfl
@[simp] theorem Inst.setStr_tbars (i : Inst) (st : Stream) (x : StreamSt) : (i.setStr st x).tbars = i.tbars := rfl
@[simp] theorem Inst.setStr_arm (i : Inst) (st : Stream) (x : StreamSt) : (i.setStr st x).arm = i.arm := rfl
@[simp] theorem Inst.setStr_watch (i : Inst) (st : Stream) (x : StreamSt) : (i.setStr st x).watch = i.watch := rfl
@[simp] theorem Inst.setStr_tbp (i : Inst) (st : Stream) (x : StreamSt) : (i.setStr st x).tbp = i.tbp := rfl
@[simp] theorem Inst.setStr_qp (i : Inst) (st : Stream) (x : StreamSt) : (i.setStr st x).qp = i.qp := rfl
@[simp] theorem Inst.setStr_waiti (i : Inst) (st : Stream) (x : StreamSt) : (i.setStr st x).waiti = i.waiti := rfl
@[simp] theorem Inst.setStr_hg (i : Inst) (st : Stream) (x : StreamSt) : (i.setStr st x).hg = i.hg := rfl
@[simp] theorem Inst.setStr_hage (i : Inst) (st : Stream) (x : StreamSt) : (i.setStr st x).hage = i.hage := rfl
@[simp] theorem Inst.setStr_win (i : Inst) (st : Stream) (x : StreamSt) : (i.setStr st x).win = i.win := rfl
@[simp] theorem Inst.setStr_lsat (i : Inst) (st : Stream) (x : StreamSt) : (i.setStr st x).lsat = i.lsat := rfl
@[simp] theorem Inst.setStr_reedsel (i : Inst) (st : Stream) (x : StreamSt) : (i.setStr st x).reedsel = i.reedsel := rfl
@[simp] theorem Inst.setStr_cbver (i : Inst) (st : Stream) (x : StreamSt) : (i.setStr st x).cbver = i.cbver := rfl
@[simp] theorem Inst.setStr_store (i : Inst) (st : Stream) (x : StreamSt) : (i.setStr st x).store = i.store := rfl
@[simp] theorem Inst.setStr_ldlq (i : Inst) (st : Stream) (x : StreamSt) : (i.setStr st x).ldlq = i.ldlq := rfl
@[simp] theorem Inst.setStr_shq (i : Inst) (st : Stream) (x : StreamSt) : (i.setStr st x).shq = i.shq := rfl
@[simp] theorem Inst.setStr_timed (i : Inst) (st : Stream) (x : StreamSt) : (i.setStr st x).timed = i.timed := rfl
@[simp] theorem Inst.setStr_copies (i : Inst) (st : Stream) (x : StreamSt) : (i.setStr st x).copies = i.copies := rfl
@[simp] theorem Inst.setStr_nextCmd (i : Inst) (st : Stream) (x : StreamSt) : (i.setStr st x).nextCmd = i.nextCmd := rfl
@[simp] theorem Inst.setStr_gran (i : Inst) (st : Stream) (x : StreamSt) : (i.setStr st x).gran = i.gran := rfl
@[simp] theorem Inst.setStr_external (i : Inst) (st : Stream) (x : StreamSt) : (i.setStr st x).external = i.external := rfl
@[simp] theorem Inst.setStr_loomHeld (i : Inst) (st : Stream) (x : StreamSt) : (i.setStr st x).loomHeld = i.loomHeld := rfl
@[simp] theorem Inst.setStr_saved (i : Inst) (st : Stream) (x : StreamSt) : (i.setStr st x).saved = i.saved := rfl
@[simp] theorem Inst.setStr_begun (i : Inst) (st : Stream) (x : StreamSt) : (i.setStr st x).begun = i.begun := rfl
@[simp] theorem Inst.setStr_ranNs (i : Inst) (st : Stream) (x : StreamSt) : (i.setStr st x).ranNs = i.ranNs := rfl
@[simp] theorem Inst.setStr_stopNs (i : Inst) (st : Stream) (x : StreamSt) : (i.setStr st x).stopNs = i.stopNs := rfl
@[simp] theorem Inst.setStr_lagN (i : Inst) (st : Stream) (x : StreamSt) : (i.setStr st x).lagN = i.lagN := rfl
@[simp] theorem Inst.setStr_joins (i : Inst) (st : Stream) (x : StreamSt) : (i.setStr st x).joins = i.joins := rfl
@[simp] theorem Inst.setStr_bad (i : Inst) (st : Stream) (x : StreamSt) : (i.setStr st x).bad = i.bad := rfl
@[simp] theorem Inst.modStr_uid (i : Inst) (st : Stream) (g : StreamSt → StreamSt) : (i.modStr st g).uid = i.uid := rfl
@[simp] theorem Inst.modStr_phase (i : Inst) (st : Stream) (g : StreamSt → StreamSt) : (i.modStr st g).phase = i.phase := rfl
@[simp] theorem Inst.modStr_launch (i : Inst) (st : Stream) (g : StreamSt → StreamSt) : (i.modStr st g).launch = i.launch := rfl
@[simp] theorem Inst.modStr_hdr (i : Inst) (st : Stream) (g : StreamSt → StreamSt) : (i.modStr st g).hdr = i.hdr := rfl
@[simp] theorem Inst.modStr_loops (i : Inst) (st : Stream) (g : StreamSt → StreamSt) : (i.modStr st g).loops = i.loops := rfl
@[simp] theorem Inst.modStr_inst (i : Inst) (st : Stream) (g : StreamSt → StreamSt) : (i.modStr st g).inst = i.inst := rfl
@[simp] theorem Inst.modStr_idx (i : Inst) (st : Stream) (g : StreamSt → StreamSt) : (i.modStr st g).idx = i.idx := rfl
@[simp] theorem Inst.modStr_v (i : Inst) (st : Stream) (g : StreamSt → StreamSt) : (i.modStr st g).v = i.v := rfl
@[simp] theorem Inst.modStr_mreg (i : Inst) (st : Stream) (g : StreamSt → StreamSt) : (i.modStr st g).mreg = i.mreg := rfl
@[simp] theorem Inst.modStr_sem (i : Inst) (st : Stream) (g : StreamSt → StreamSt) : (i.modStr st g).sem = i.sem := rfl
@[simp] theorem Inst.modStr_waits (i : Inst) (st : Stream) (g : StreamSt → StreamSt) : (i.modStr st g).waits = i.waits := rfl
@[simp] theorem Inst.modStr_rings (i : Inst) (st : Stream) (g : StreamSt → StreamSt) : (i.modStr st g).rings = i.rings := rfl
@[simp] theorem Inst.modStr_ovf (i : Inst) (st : Stream) (g : StreamSt → StreamSt) : (i.modStr st g).ovf = i.ovf := rfl
@[simp] theorem Inst.modStr_causeArg (i : Inst) (st : Stream) (g : StreamSt → StreamSt) : (i.modStr st g).causeArg = i.causeArg := rfl
@[simp] theorem Inst.modStr_causeSt (i : Inst) (st : Stream) (g : StreamSt → StreamSt) : (i.modStr st g).causeSt = i.causeSt := rfl
@[simp] theorem Inst.modStr_cause (i : Inst) (st : Stream) (g : StreamSt → StreamSt) : (i.modStr st g).cause = i.cause := rfl
@[simp] theorem Inst.modStr_trapvec (i : Inst) (st : Stream) (g : StreamSt → StreamSt) : (i.modStr st g).trapvec = i.trapvec := rfl
@[simp] theorem Inst.modStr_trappc (i : Inst) (st : Stream) (g : StreamSt → StreamSt) : (i.modStr st g).trappc = i.trappc := rfl
@[simp] theorem Inst.modStr_nudgevec (i : Inst) (st : Stream) (g : StreamSt → StreamSt) : (i.modStr st g).nudgevec = i.nudgevec := rfl
@[simp] theorem Inst.modStr_nudgepc (i : Inst) (st : Stream) (g : StreamSt → StreamSt) : (i.modStr st g).nudgepc = i.nudgepc := rfl
@[simp] theorem Inst.modStr_srcQueue (i : Inst) (st : Stream) (g : StreamSt → StreamSt) : (i.modStr st g).srcQueue = i.srcQueue := rfl
@[simp] theorem Inst.modStr_srcTbar (i : Inst) (st : Stream) (g : StreamSt → StreamSt) : (i.modStr st g).srcTbar = i.srcTbar := rfl
@[simp] theorem Inst.modStr_mprog (i : Inst) (st : Stream) (g : StreamSt → StreamSt) : (i.modStr st g).mprog = i.mprog := rfl
@[simp] theorem Inst.modStr_inhnd (i : Inst) (st : Stream) (g : StreamSt → StreamSt) : (i.modStr st g).inhnd = i.inhnd := rfl
@[simp] theorem Inst.modStr_nmask (i : Inst) (st : Stream) (g : StreamSt → StreamSt) : (i.modStr st g).nmask = i.nmask := rfl
@[simp] theorem Inst.modStr_tbars (i : Inst) (st : Stream) (g : StreamSt → StreamSt) : (i.modStr st g).tbars = i.tbars := rfl
@[simp] theorem Inst.modStr_arm (i : Inst) (st : Stream) (g : StreamSt → StreamSt) : (i.modStr st g).arm = i.arm := rfl
@[simp] theorem Inst.modStr_watch (i : Inst) (st : Stream) (g : StreamSt → StreamSt) : (i.modStr st g).watch = i.watch := rfl
@[simp] theorem Inst.modStr_tbp (i : Inst) (st : Stream) (g : StreamSt → StreamSt) : (i.modStr st g).tbp = i.tbp := rfl
@[simp] theorem Inst.modStr_qp (i : Inst) (st : Stream) (g : StreamSt → StreamSt) : (i.modStr st g).qp = i.qp := rfl
@[simp] theorem Inst.modStr_waiti (i : Inst) (st : Stream) (g : StreamSt → StreamSt) : (i.modStr st g).waiti = i.waiti := rfl
@[simp] theorem Inst.modStr_hg (i : Inst) (st : Stream) (g : StreamSt → StreamSt) : (i.modStr st g).hg = i.hg := rfl
@[simp] theorem Inst.modStr_hage (i : Inst) (st : Stream) (g : StreamSt → StreamSt) : (i.modStr st g).hage = i.hage := rfl
@[simp] theorem Inst.modStr_win (i : Inst) (st : Stream) (g : StreamSt → StreamSt) : (i.modStr st g).win = i.win := rfl
@[simp] theorem Inst.modStr_lsat (i : Inst) (st : Stream) (g : StreamSt → StreamSt) : (i.modStr st g).lsat = i.lsat := rfl
@[simp] theorem Inst.modStr_reedsel (i : Inst) (st : Stream) (g : StreamSt → StreamSt) : (i.modStr st g).reedsel = i.reedsel := rfl
@[simp] theorem Inst.modStr_cbver (i : Inst) (st : Stream) (g : StreamSt → StreamSt) : (i.modStr st g).cbver = i.cbver := rfl
@[simp] theorem Inst.modStr_store (i : Inst) (st : Stream) (g : StreamSt → StreamSt) : (i.modStr st g).store = i.store := rfl
@[simp] theorem Inst.modStr_ldlq (i : Inst) (st : Stream) (g : StreamSt → StreamSt) : (i.modStr st g).ldlq = i.ldlq := rfl
@[simp] theorem Inst.modStr_shq (i : Inst) (st : Stream) (g : StreamSt → StreamSt) : (i.modStr st g).shq = i.shq := rfl
@[simp] theorem Inst.modStr_timed (i : Inst) (st : Stream) (g : StreamSt → StreamSt) : (i.modStr st g).timed = i.timed := rfl
@[simp] theorem Inst.modStr_copies (i : Inst) (st : Stream) (g : StreamSt → StreamSt) : (i.modStr st g).copies = i.copies := rfl
@[simp] theorem Inst.modStr_nextCmd (i : Inst) (st : Stream) (g : StreamSt → StreamSt) : (i.modStr st g).nextCmd = i.nextCmd := rfl
@[simp] theorem Inst.modStr_gran (i : Inst) (st : Stream) (g : StreamSt → StreamSt) : (i.modStr st g).gran = i.gran := rfl
@[simp] theorem Inst.modStr_external (i : Inst) (st : Stream) (g : StreamSt → StreamSt) : (i.modStr st g).external = i.external := rfl
@[simp] theorem Inst.modStr_loomHeld (i : Inst) (st : Stream) (g : StreamSt → StreamSt) : (i.modStr st g).loomHeld = i.loomHeld := rfl
@[simp] theorem Inst.modStr_saved (i : Inst) (st : Stream) (g : StreamSt → StreamSt) : (i.modStr st g).saved = i.saved := rfl
@[simp] theorem Inst.modStr_begun (i : Inst) (st : Stream) (g : StreamSt → StreamSt) : (i.modStr st g).begun = i.begun := rfl
@[simp] theorem Inst.modStr_ranNs (i : Inst) (st : Stream) (g : StreamSt → StreamSt) : (i.modStr st g).ranNs = i.ranNs := rfl
@[simp] theorem Inst.modStr_stopNs (i : Inst) (st : Stream) (g : StreamSt → StreamSt) : (i.modStr st g).stopNs = i.stopNs := rfl
@[simp] theorem Inst.modStr_lagN (i : Inst) (st : Stream) (g : StreamSt → StreamSt) : (i.modStr st g).lagN = i.lagN := rfl
@[simp] theorem Inst.modStr_joins (i : Inst) (st : Stream) (g : StreamSt → StreamSt) : (i.modStr st g).joins = i.joins := rfl
@[simp] theorem Inst.modStr_bad (i : Inst) (st : Stream) (g : StreamSt → StreamSt) : (i.modStr st g).bad = i.bad := rfl
@[simp] theorem Inst.mend_uid (i : Inst) (p : Spot) : (i.mend p).uid = i.uid := rfl
@[simp] theorem Inst.mend_phase (i : Inst) (p : Spot) : (i.mend p).phase = i.phase := rfl
@[simp] theorem Inst.mend_launch (i : Inst) (p : Spot) : (i.mend p).launch = i.launch := rfl
@[simp] theorem Inst.mend_hdr (i : Inst) (p : Spot) : (i.mend p).hdr = i.hdr := rfl
@[simp] theorem Inst.mend_loops (i : Inst) (p : Spot) : (i.mend p).loops = i.loops := rfl
@[simp] theorem Inst.mend_inst (i : Inst) (p : Spot) : (i.mend p).inst = i.inst := rfl
@[simp] theorem Inst.mend_idx (i : Inst) (p : Spot) : (i.mend p).idx = i.idx := rfl
@[simp] theorem Inst.mend_v (i : Inst) (p : Spot) : (i.mend p).v = i.v := rfl
@[simp] theorem Inst.mend_mreg (i : Inst) (p : Spot) : (i.mend p).mreg = i.mreg := rfl
@[simp] theorem Inst.mend_sem (i : Inst) (p : Spot) : (i.mend p).sem = i.sem := rfl
@[simp] theorem Inst.mend_waits (i : Inst) (p : Spot) : (i.mend p).waits = i.waits := rfl
@[simp] theorem Inst.mend_rings (i : Inst) (p : Spot) : (i.mend p).rings = i.rings := rfl
@[simp] theorem Inst.mend_ovf (i : Inst) (p : Spot) : (i.mend p).ovf = i.ovf := rfl
@[simp] theorem Inst.mend_causeArg (i : Inst) (p : Spot) : (i.mend p).causeArg = i.causeArg := rfl
@[simp] theorem Inst.mend_causeSt (i : Inst) (p : Spot) : (i.mend p).causeSt = i.causeSt := rfl
@[simp] theorem Inst.mend_cause (i : Inst) (p : Spot) : (i.mend p).cause = i.cause := rfl
@[simp] theorem Inst.mend_trapvec (i : Inst) (p : Spot) : (i.mend p).trapvec = i.trapvec := rfl
@[simp] theorem Inst.mend_trappc (i : Inst) (p : Spot) : (i.mend p).trappc = i.trappc := rfl
@[simp] theorem Inst.mend_nudgevec (i : Inst) (p : Spot) : (i.mend p).nudgevec = i.nudgevec := rfl
@[simp] theorem Inst.mend_nudgepc (i : Inst) (p : Spot) : (i.mend p).nudgepc = i.nudgepc := rfl
@[simp] theorem Inst.mend_srcQueue (i : Inst) (p : Spot) : (i.mend p).srcQueue = i.srcQueue := rfl
@[simp] theorem Inst.mend_srcTbar (i : Inst) (p : Spot) : (i.mend p).srcTbar = i.srcTbar := rfl
@[simp] theorem Inst.mend_mprog (i : Inst) (p : Spot) : (i.mend p).mprog = i.mprog := rfl
@[simp] theorem Inst.mend_inhnd (i : Inst) (p : Spot) : (i.mend p).inhnd = i.inhnd := rfl
@[simp] theorem Inst.mend_nmask (i : Inst) (p : Spot) : (i.mend p).nmask = i.nmask := rfl
@[simp] theorem Inst.mend_tbars (i : Inst) (p : Spot) : (i.mend p).tbars = i.tbars := rfl
@[simp] theorem Inst.mend_arm (i : Inst) (p : Spot) : (i.mend p).arm = i.arm := rfl
@[simp] theorem Inst.mend_watch (i : Inst) (p : Spot) : (i.mend p).watch = i.watch := rfl
@[simp] theorem Inst.mend_tbp (i : Inst) (p : Spot) : (i.mend p).tbp = i.tbp := rfl
@[simp] theorem Inst.mend_qp (i : Inst) (p : Spot) : (i.mend p).qp = i.qp := rfl
@[simp] theorem Inst.mend_waiti (i : Inst) (p : Spot) : (i.mend p).waiti = i.waiti := rfl
@[simp] theorem Inst.mend_hg (i : Inst) (p : Spot) : (i.mend p).hg = i.hg := rfl
@[simp] theorem Inst.mend_hage (i : Inst) (p : Spot) : (i.mend p).hage = i.hage := rfl
@[simp] theorem Inst.mend_win (i : Inst) (p : Spot) : (i.mend p).win = i.win := rfl
@[simp] theorem Inst.mend_lsat (i : Inst) (p : Spot) : (i.mend p).lsat = i.lsat := rfl
@[simp] theorem Inst.mend_reedsel (i : Inst) (p : Spot) : (i.mend p).reedsel = i.reedsel := rfl
@[simp] theorem Inst.mend_cbver (i : Inst) (p : Spot) : (i.mend p).cbver = i.cbver := rfl
@[simp] theorem Inst.mend_store (i : Inst) (p : Spot) : (i.mend p).store = i.store := rfl
@[simp] theorem Inst.mend_ldlq (i : Inst) (p : Spot) : (i.mend p).ldlq = i.ldlq := rfl
@[simp] theorem Inst.mend_shq (i : Inst) (p : Spot) : (i.mend p).shq = i.shq := rfl
@[simp] theorem Inst.mend_timed (i : Inst) (p : Spot) : (i.mend p).timed = i.timed := rfl
@[simp] theorem Inst.mend_copies (i : Inst) (p : Spot) : (i.mend p).copies = i.copies := rfl
@[simp] theorem Inst.mend_nextCmd (i : Inst) (p : Spot) : (i.mend p).nextCmd = i.nextCmd := rfl
@[simp] theorem Inst.mend_gran (i : Inst) (p : Spot) : (i.mend p).gran = i.gran := rfl
@[simp] theorem Inst.mend_external (i : Inst) (p : Spot) : (i.mend p).external = i.external := rfl
@[simp] theorem Inst.mend_loomHeld (i : Inst) (p : Spot) : (i.mend p).loomHeld = i.loomHeld := rfl
@[simp] theorem Inst.mend_saved (i : Inst) (p : Spot) : (i.mend p).saved = i.saved := rfl
@[simp] theorem Inst.mend_begun (i : Inst) (p : Spot) : (i.mend p).begun = i.begun := rfl
@[simp] theorem Inst.mend_ranNs (i : Inst) (p : Spot) : (i.mend p).ranNs = i.ranNs := rfl
@[simp] theorem Inst.mend_stopNs (i : Inst) (p : Spot) : (i.mend p).stopNs = i.stopNs := rfl
@[simp] theorem Inst.mend_lagN (i : Inst) (p : Spot) : (i.mend p).lagN = i.lagN := rfl
@[simp] theorem Inst.mend_joins (i : Inst) (p : Spot) : (i.mend p).joins = i.joins := rfl
@[simp] theorem Inst.mend_streams (i : Inst) (p : Spot) : (i.mend p).streams = i.streams := rfl
@[simp] theorem Inst.mend_handling (i : Inst) (p : Spot) : (i.mend p).handling = i.handling := rfl
@[simp] theorem Inst.mend_g (i : Inst) (p : Spot) (st : Stream) (n : Nat) : (i.mend p).g st n = i.g st n := rfl
@[simp] theorem Inst.mend_ages (i : Inst) (p : Spot) (st : Stream) : (i.mend p).ages st = i.ages st := rfl

end Sys2Proof.Machine
end

