-- ==== Sys2Proof/Laws/Mem.lean ====
section
/-! SUPPORT. The memory's canonical form: it holds at reset, and every operation that writes a byte of
memory keeps it; and what a byte reads as after a write. -/

namespace Sys2Proof.Machine

/-- The memory of reset has its canonical form. -/
theorem reset_memOk : State.reset.memOk := rfl

/-- Bytes written one after another keep the canonical form. -/
theorem memOk_foldl (l : List (Nat × Byte)) (m : List Host.Cell) (h : Memory.wf m = true) :
    Memory.wf (l.foldl (fun m p => SMap.set 0 m p.1 p.2) m) = true := by
  induction l generalizing m with
  | nil => exact h
  | cons p t ih => exact ih _ (SMap.wf_set (d := (0 : Byte)) m p.1 p.2 h)

/-- Addresses that no byte is written to keep theirs. -/
theorem get_foldl_out (l : List (Nat × Byte)) (m : List Host.Cell) (k : Nat) (h : k ∉ l.map (·.1)) :
    SMap.get 0 (l.foldl (fun m p => SMap.set 0 m p.1 p.2) m) k = SMap.get 0 m k := by
  induction l generalizing m with
  | nil => rfl
  | cons p t ih =>
    simp only [List.map_cons, List.mem_cons, not_or] at h
    rw [List.foldl_cons, ih _ h.2, SMap.get_set_ne _ _ _ h.1]

/-- An address that one byte is written to holds it. -/
theorem get_foldl_in (l : List (Nat × Byte)) (m : List Host.Cell) (k : Nat) (x : Byte)
    (hd : (l.map (·.1)).Nodup) (h : (k, x) ∈ l) :
    SMap.get 0 (l.foldl (fun m p => SMap.set 0 m p.1 p.2) m) k = x := by
  induction l generalizing m with
  | nil => cases h
  | cons p t ih =>
    rw [List.map_cons, List.nodup_cons] at hd
    rcases List.mem_cons.mp h with rfl | h
    · rw [List.foldl_cons, get_foldl_out _ _ _ hd.1]; simp
    · exact ih _ hd.2 h

/-- Bytes of physical memory written keep the canonical form. -/
theorem State.memOk_wr (s : State) (pa : Nat) (b : List Byte) (h : s.memOk) : (s.wr pa b).memOk :=
  memOk_foldl _ _ h

/-- A write of the device keeps it. -/
theorem State.memOk_devWrite {s t : State} {pa : Nat} {b : List Byte} (h : s.memOk)
    (ht : s.devWrite pa b = .ok t) : t.memOk := by
  unfold State.devWrite at ht
  split at ht
  · cases ht; exact s.memOk_wr pa b h
  · cases ht

/-- A byte written by an instance keeps it. -/
theorem State.memOk_poke (s : State) (l : Loc) (b : Byte) (h : s.memOk) : (s.poke l b).memOk := by
  cases l with
  | hbm pa => exact SMap.wf_set (d := (0 : Byte)) s.mem pa b h
  | spad o => exact h
  | acc o => exact h

/-- Bytes written by an instance keep it. -/
theorem State.memOk_puts (s : State) (l : List (Loc × Byte)) (h : s.memOk) : (s.puts l).memOk := by
  have k : ∀ (l : List (Loc × Byte)) (s : State), s.memOk → (l.foldl (fun s p => s.poke p.1 p.2) s).memOk := by
    intro l
    induction l with
    | nil => exact fun s h => h
    | cons p t ih => exact fun s h => ih _ (s.memOk_poke p.1 p.2 h)
  exact k l s h

@[inherit_doc State.memOk_puts]
theorem State.memOk_pokes (s : State) (w : Option Writer) (l : List (Loc × Byte)) (h : s.memOk) :
    (s.pokes w l).memOk := by
  cases w <;> exact State.memOk_puts _ _ h

/-- Replacing anything but memory keeps it. -/
theorem State.memOk_setInst (s : State) (i : Inst) : (s.setInst i).memOk ↔ s.memOk := Iff.rfl
@[inherit_doc State.memOk_setInst]
theorem State.memOk_setStr (s : State) (x : StreamSt) : (s.setStr x).memOk ↔ s.memOk := Iff.rfl
@[inherit_doc State.memOk_setInst]
theorem State.memOk_setCore (s : State) (n : Nat) (c : Core) : (s.setCore n c).memOk ↔ s.memOk := Iff.rfl
@[inherit_doc State.memOk_setInst]
theorem State.memOk_setDie (s : State) (n : Nat) (d : Die) : (s.setDie n d).memOk ↔ s.memOk := Iff.rfl
@[inherit_doc State.memOk_setInst]
theorem State.memOk_setPlot (s : State) (n : Nat) (p : Plot) : (s.setPlot n p).memOk ↔ s.memOk := Iff.rfl

/-- Claims of storage keep it. -/
theorem State.memOk_claim {s t : State} {core : Nat} {u : Unit_} (h : s.memOk)
    (ht : s.claim core u = .ok t) : t.memOk := by
  simp only [State.claim] at ht
  split at ht
  · split at ht
    · cases ht; exact h
    · simp only [bind, Except.bind] at ht
      split at ht
      · cases ht
      · next s1 h1 =>
        have k1 := State.memOk_devWrite h h1
        split at ht
        · cases ht
        · next s2 h2 =>
          have k2 : s2.memOk := State.memOk_devWrite k1 h2
          cases ht
          exact k2
  · cases ht; exact h

@[inherit_doc State.memOk_claim]
theorem State.memOk_claims {s t : State} {core : Nat} {l : List Unit_} (h : s.memOk)
    (ht : s.claims core l = .ok t) : t.memOk := by
  induction l generalizing s with
  | nil => cases ht; exact h
  | cons u r ih =>
    simp only [State.claims, List.foldlM_cons, bind, Except.bind] at ht
    split at ht
    · cases ht
    · next s1 h1 => exact ih (State.memOk_claim h h1) ht

/-- A byte of physical memory after a write: the written one in the written run, where none of it is
redirected (R301). -/
theorem State.rd_wr_in (s : State) (pa : Nat) (b : List Byte) (n : Nat) (h : n < b.length)
    (hr : ∀ k, k < b.length → s.remap (pa + k) = pa + k) :
    SMap.get (0 : Byte) (s.wr pa b).mem (pa + n) = b[n] := by
  have e : (b.zipIdx.map fun x => (s.remap (pa + x.2), x.1)) = b.zipIdx.map fun x => (pa + x.2, x.1) := by
    refine List.map_congr_left fun x hx => ?_
    have := List.snd_lt_of_mem_zipIdx hx
    rw [hr x.2 (by simpa using this)]
  show SMap.get 0 ((b.zipIdx.map fun x => (s.remap (pa + x.2), x.1)).foldl _ s.mem) (pa + n) = b[n]
  rw [e]
  refine get_foldl_in _ _ _ _ ?_ ?_
  · rw [List.map_map]
    have : ((fun x : Nat × Byte => x.1) ∘ fun x : Byte × Nat => (pa + x.2, x.1)) = (pa + ·) ∘ Prod.snd := rfl
    rw [this, ← List.map_map]
    rw [List.zipIdx_map_snd]
    exact List.pairwise_map.mpr (List.Pairwise.imp (fun h e => h (by omega)) (List.nodup_range' (step := 1)))
  · exact List.mem_map.mpr ⟨(b[n], n), List.mem_zipIdx_iff_getElem?.mpr (by simp [h]), rfl⟩

/-- Addresses that no byte of a write lands on keep theirs. -/
theorem State.rd_wr_out (s : State) (pa : Nat) (b : List Byte) (a : Nat)
    (h : ∀ k, k < b.length → s.remap (pa + k) ≠ a) :
    SMap.get (0 : Byte) (s.wr pa b).mem a = SMap.get 0 s.mem a := by
  refine get_foldl_out _ _ _ fun hm => ?_
  obtain ⟨p, hp, rfl⟩ := List.mem_map.mp hm
  obtain ⟨x, hx, rfl⟩ := List.mem_map.mp hp
  exact h x.2 (by simpa using List.snd_lt_of_mem_zipIdx hx) rfl

/-- What a byte written by an instance changes: HBM, or its own storage. -/
theorem State.poke_eq (s : State) (l : Loc) (b : Byte) :
    s.poke l b = { s with mem := (s.poke l b).mem }.setInst (s.inst.poke l b) ∧
      (s.poke l b).mem = match l with
        | .hbm pa => SMap.set 0 s.mem pa b
        | _ => s.mem := by
  cases l <;> exact ⟨rfl, rfl⟩

/-- A byte written by an instance is what its place then holds, and every other place keeps its byte. -/
theorem State.peek_poke (s : State) (l p : Loc) (b : Byte) :
    (s.poke l b).peek (s.poke l b).inst p = if p = l then b else s.peek s.inst p := by
  obtain ⟨h, hm⟩ := s.poke_eq l b
  have hi : (s.poke l b).inst = s.inst.poke l b := by rw [h]; simp
  rw [hi]
  cases l <;> cases p <;> simp [State.peek, Inst.poke, Inst.mend, hm, SMap.get_set]

/-- Places that no byte is written to keep theirs. -/
theorem State.peek_puts (s : State) (l : List (Loc × Byte)) (p : Loc) (h : p ∉ l.map (·.1)) :
    (s.puts l).peek (s.puts l).inst p = s.peek s.inst p := by
  have k : ∀ (l : List (Loc × Byte)) (s : State), p ∉ l.map (·.1) →
      (l.foldl (fun s p => s.poke p.1 p.2) s).peek (l.foldl (fun s p => s.poke p.1 p.2) s).inst p =
        s.peek s.inst p := by
    intro l
    induction l with
    | nil => exact fun _ _ => rfl
    | cons x t ih =>
      intro s h
      simp only [List.map_cons, List.mem_cons, not_or] at h
      rw [List.foldl_cons, ih _ h.2, State.peek_poke, if_neg h.1]
  exact k l s h

/-- The record of what a write overwrote changes no byte that its place holds (log 13). -/
theorem State.peek_lagged (s : State) (x : Writer) (w : List (Loc × Byte)) (p : Loc) :
    (s.lagged x w).peek (s.lagged x w).inst p = s.peek s.inst p := by
  have h : (s.lagged x w).inst = { s.inst with lagN := s.inst.lagN + 1 } := State.inst_setInst ..
  rw [h]
  cases p <;> rfl

/-- Places that no byte of a write lands on keep theirs (R301). -/
theorem State.peek_pokes (s : State) (w : Option Writer) (l : List (Loc × Byte)) (p : Loc)
    (h : p ∉ l.map fun x => s.landing x.1) : (s.pokes w l).peek (s.pokes w l).inst p = s.peek s.inst p := by
  have h' : p ∉ (l.map fun x => (s.landing x.1, x.2)).map (·.1) := by
    rw [List.map_map]; exact h
  cases w with
  | none => exact (State.peek_puts _ _ p h').trans rfl
  | some x => exact (State.peek_puts _ _ p h').trans (s.peek_lagged x _ p)

end Sys2Proof.Machine
end

