-- ==== Sys2Proof/Laws/Ops.lean ====
section
/-! SUPPORT. What the shared operations of every meaning can do, said once: issuing an instruction, and
what follows from its own effect. -/

namespace Sys2Proof.Machine

/-- A ready instruction has its own effect. -/
theorem issue_ready {i : Instr} {s s1 : State} (body : State → Res) (h : s.ready i s1) :
    issue i s body = s.answer i.head (postOf i.head) (body s1) := by
  obtain ⟨h1, h2, s0, h3, h4, h5, h6⟩ := h
  simp [issue, h1, h2, h3, h4, h5, h6]

/-- A ready command has its own effect. -/
theorem issueCmd_ready {i : Instr} {s s1 : State} (body : State → Res) (h : s.readyCmd i s1) :
    issueCmd i s body = s.answer i.head [] (body s1) := by
  obtain ⟨h1, h2, h3, h4⟩ := h
  simp [issueCmd, h1, h2, h3, h4]

@[simp] theorem State.answer_done (s : State) (i : Instr) (e : State) :
    s.answer i.head (postOf i.head) (.done e) = s.completes i e := rfl

@[simp] theorem State.answer_jump (s : State) (i : Instr) (pc : Word) (e : State) :
    s.answer i.head (postOf i.head) (.jump pc e) = s.goesTo i pc e := rfl

@[simp] theorem State.answer_doneCmd (s : State) (i : Instr) (e : State) :
    s.answer i.head [] (.done e) = s.handsOver i e := rfl

@[simp] theorem State.answer_trap (s : State) (h : Head) (adds : List (Fin 32 × Nat)) (t : Trap) (e : State) :
    s.answer h adds (.trap t e) = .next (e.raise e.stream t) := rfl

@[simp] theorem State.answer_hold (s : State) (h : Head) (adds : List (Fin 32 × Nat)) (e : State) :
    s.answer h adds (.hold e) = .next e := rfl

@[simp] theorem State.answer_posts (s : State) (i : Instr) (adds l : List (Fin 32 × Nat)) (e : State) :
    s.answer i.head adds (.posts l e) = .next (e.complete (s.after i) l) := rfl

/-- Everything issuing can come to: nothing where the stream may not issue; a decode fault raised; an
uncorrectable error in the count it waits on, or a stall in the wait; a codebook that is being loaded; an
uncorrectable error in what it names; a save area outside HBM; or the instruction's own effect. -/
theorem issue_cases (i : Instr) (s : State) (body : State → Res) :
    (s.issues = false ∧ issue i s body = .next s) ∨
    (∃ c, s.decodeFault i = some c ∧ issue i s body = .next (s.raise s.stream ⟨c, 0⟩)) ∨
    (∃ t, s.acquire 0 i.head.wsem i.head.wamt = .error t ∧ issue i s body = .next (s.raise s.stream t)) ∨
    (s.acquire 0 i.head.wsem i.head.wamt = .ok none ∧
      issue i s body = .next (s.enlist (.instr s.stream) i.head.wsem i.head.wamt)) ∨
    (∃ s0, s.acquire 0 i.head.wsem i.head.wamt = .ok (some s0) ∧ issue i s body = .next s0) ∨
    (∃ s0 t, s.acquire 0 i.head.wsem i.head.wamt = .ok (some s0) ∧
      s0.inst.sound (spotsOf s0.inst i s0.stream) = .error t ∧
      issue i s body = .next (s0.raise s0.stream t)) ∨
    (∃ f, issue i s body = .fault f) ∨
    (∃ s1, s.ready i s1 ∧ issue i s body = s.answer i.head (postOf i.head) (body s1)) := by
  by_cases h1 : s.issues = true
  · cases h2 : s.decodeFault i with
    | some c => exact .inr (.inl ⟨c, rfl, by simp [issue, h1, h2]⟩)
    | none =>
      cases h3 : s.acquire 0 i.head.wsem i.head.wamt with
      | error t => exact .inr (.inr (.inl ⟨t, rfl, by simp [issue, h1, h2, h3]⟩))
      | ok o => cases o with
        | none => exact .inr (.inr (.inr (.inl ⟨rfl, by simp [issue, h1, h2, h3]⟩)))
        | some s0 =>
          refine .inr (.inr (.inr (.inr ?_)))
          by_cases h4 : s0.latchBusy i = true
          · exact .inl ⟨s0, rfl, by simp [issue, h1, h2, h3, h4]⟩
          · have h4' : s0.latchBusy i = false := by simpa using h4
            cases h6 : s0.inst.sound (spotsOf s0.inst i s0.stream) with
            | error t => exact .inr (.inl ⟨s0, t, rfl, h6, by simp [issue, h1, h2, h3, h4', h6]⟩)
            | ok _ =>
              cases h5 : s0.claims s0.core (unitsOf i) with
              | error f => exact .inr (.inr (.inl ⟨f, by simp [issue, h1, h2, h3, h4', h6, h5]⟩))
              | ok s1 =>
                have hr : s.ready i s1 := ⟨h1, h2, s0, h3, h4', h6, h5⟩
                exact .inr (.inr (.inr ⟨s1, hr, issue_ready body hr⟩))
  · have h1' : s.issues = false := by simpa using h1
    exact .inl ⟨h1', by simp [issue, h1']⟩

/-- Everything issuing a command can come to. -/
theorem issueCmd_cases (i : Instr) (s : State) (body : State → Res) :
    (s.issues = false ∧ issueCmd i s body = .next s) ∨
    (∃ c, s.decodeFault i = some c ∧ issueCmd i s body = .next (s.raise s.stream ⟨c, 0⟩)) ∨
    (∃ t, s.inst.sound (spotsOf s.inst i s.stream) = .error t ∧ issueCmd i s body = .next (s.raise s.stream t)) ∨
    (∃ f, issueCmd i s body = .fault f) ∨
    (∃ s1, s.readyCmd i s1 ∧ issueCmd i s body = s.answer i.head [] (body s1)) := by
  by_cases h1 : s.issues = true
  · cases h2 : s.decodeFault i with
    | some c => exact .inr (.inl ⟨c, rfl, by simp [issueCmd, h1, h2]⟩)
    | none =>
      cases h6 : s.inst.sound (spotsOf s.inst i s.stream) with
      | error t => exact .inr (.inr (.inl ⟨t, rfl, by simp [issueCmd, h1, h2, h6]⟩))
      | ok _ =>
        cases h5 : s.claims s.core (unitsOf i) with
        | error f => exact .inr (.inr (.inr (.inl ⟨f, by simp [issueCmd, h1, h2, h6, h5]⟩)))
        | ok s1 =>
          have hr : s.readyCmd i s1 := ⟨h1, h2, h6, h5⟩
          exact .inr (.inr (.inr (.inr ⟨s1, hr, issueCmd_ready body hr⟩)))
  · have h1' : s.issues = false := by simpa using h1
    exact .inl ⟨h1', by simp [issueCmd, h1']⟩

end Sys2Proof.Machine
end

