-- ==== Sys2Proof/Laws/Effects.lean ====
section
/-! SUPPORT. What the shared effects can do, said once: results, flags, the pc's advance, posts, and
completion change only what an instruction's own stream may change, or end in a raised cause. -/

namespace Sys2Proof.Machine

theorem Core.setAct_self (c : Core) (h : c.act.isSome = true) : c.setAct (c.act.getD {}) = c := by
  obtain ⟨main, pre⟩ := c
  cases pre with
  | some i => rfl
  | none =>
    cases main with
    | some i => rfl
    | none => cases h

theorem Core.setAct_setAct (c : Core) (i j : Inst) : (c.setAct i).setAct j = c.setAct j := by
  cases h : c.pre <;> simp [Core.setAct, h]

/-- The executing core shows an instance after one was put there. -/
@[simp] theorem State.act_setInst (s : State) (i : Inst) : (s.setInst i).self.act = some i := by simp

theorem State.onlyCore_refl (s : State) : s.onlyCore s :=
  ⟨rfl, fun _ _ => rfl, fun _ _ => rfl, rfl⟩

theorem State.onlyCore.core {s t : State} (h : s.onlyCore t) : t.core = s.core := by rw [← h.1]
theorem State.onlyCore.stream {s t : State} (h : s.onlyCore t) : t.stream = s.stream := by rw [← h.1]

theorem State.onlyCore_trans {s t u : State} (h : s.onlyCore t) (k : t.onlyCore u) : s.onlyCore u := by
  have hc := h.core
  obtain ⟨h1, h2, h3, h4⟩ := h
  obtain ⟨k1, k2, k3, k4⟩ := k
  rw [hc] at k2 k3 k4
  refine ⟨?_, fun n hn => (k2 n hn).trans (h2 n hn), fun n hn => (k3 n hn).trans (h3 n hn), k4.trans h4⟩
  rw [← k1, ← h1]

/-- Nothing changed where nothing but the registers of a result did. -/
theorem State.onlyResult_refl (s : State) (h : s.self.act.isSome = true) : s.onlyResult s :=
  ⟨rfl, s.onlyCore_refl, (Core.setAct_self _ h).symm, rfl, fun _ _ => rfl, rfl⟩

theorem Inst.onlyStreams_trans {i j k : Inst} (h : i.onlyStreams j) (l : j.onlyStreams k) : i.onlyStreams k := by
  unfold Inst.onlyStreams at *
  rw [← l, ← h]

theorem StreamSt.onlyResult_trans {x y z : StreamSt} (h : x.onlyResult y) (k : y.onlyResult z) : x.onlyResult z := by
  unfold StreamSt.onlyResult at *
  rw [← k, ← h]

theorem State.onlyResult_trans {s t u : State} (h : s.onlyResult t) (k : t.onlyResult u) : s.onlyResult u := by
  obtain ⟨h1, h2, h3, h4, h5, h6⟩ := h
  obtain ⟨k1, k2, k3, k4, k5, k6⟩ := k
  refine ⟨k1.trans h1, State.onlyCore_trans h2 k2, ?_, Inst.onlyStreams_trans h4 k4, ?_, StreamSt.onlyResult_trans h6 k6⟩
  · unfold State.onlyInst at *; rw [k3, h3, Core.setAct_setAct]
  · intro x hx; rw [k5 x (by rw [h2.stream]; exact hx), h5 x hx]

/-- Replacing parts of the executing stream and of the instance that a result may change. -/
theorem State.onlyResult_setInst (s : State) (i : Inst) (h : s.inst.onlyStreams i)
    (ho : ∀ x, x ≠ s.stream → i.streams.get x = s.inst.streams.get x)
    (hs : s.str.onlyResult (i.streams.get s.stream)) : s.onlyResult (s.setInst i) :=
  ⟨rfl, ⟨rfl, fun _ hk => s.coreAt_setInst_ne i hk, fun _ _ => rfl, rfl⟩, by simp [State.onlyInst], by simpa using h,
    by simpa using ho, by simpa using hs⟩

/-- Replacing parts of the executing stream that a result may change. -/
theorem State.onlyResult_setStr (s : State) (x : StreamSt) (h : s.str.onlyResult x) : s.onlyResult (s.setStr x) := by
  refine s.onlyResult_setInst _ rfl (fun y hy => Inst.setStr_get_ne _ _ hy) ?_
  simpa using h

/-- Replacing nothing but the stream an instance executes. -/
theorem Inst.onlyStreams_setStr (i : Inst) (st : Stream) (x : StreamSt) : i.onlyStreams (i.setStr st x) := rfl

theorem Inst.onlyStreams_setG (i : Inst) (st : Stream) (n : Nat) (v : Word) : i.onlyStreams (i.setG st n v) := by
  unfold Inst.setG; split
  · rfl
  · split <;> rfl

theorem Inst.onlyStreams_push (i : Inst) (st : Stream) (v : Vec) : i.onlyStreams (i.push st v) := by
  simp only [Inst.push]; split <;> rfl

theorem Inst.setG_get_ne (i : Inst) (st : Stream) (n : Nat) (v : Word) {y : Stream} (h : y ≠ st) :
    (i.setG st n v).streams.get y = i.streams.get y := by
  unfold Inst.setG; split
  · rfl
  · split
    · rfl
    · rw [Inst.mend_streams]; exact Inst.modStr_get_ne _ _ h

theorem Inst.push_get_ne (i : Inst) (st : Stream) (v : Vec) {y : Stream} (h : y ≠ st) :
    (i.push st v).streams.get y = i.streams.get y := by
  simp only [Inst.push]; split
  · rfl
  · exact Inst.modStr_get_ne _ _ h

theorem Inst.setG_get_same (i : Inst) (st : Stream) (n : Nat) (v : Word) :
    (i.streams.get st).onlyResult ((i.setG st n v).streams.get st) := by
  unfold Inst.setG; split
  · rfl
  · split
    · rfl
    · simp [StreamSt.onlyResult]

theorem Inst.push_get_same (i : Inst) (st : Stream) (v : Vec) :
    (i.streams.get st).onlyResult ((i.push st v).streams.get st) := by
  simp only [Inst.push]; split
  · rfl
  · simp [StreamSt.onlyResult]

@[simp] theorem Inst.handling_modStr (i : Inst) (st : Stream) (f : StreamSt → StreamSt) :
    (i.modStr st f).handling = i.handling := rfl

/-- A result changes its stream's registers and age queue, or the handler's copy of them. -/
theorem State.onlyResult_result (s : State) (d : Dst) (x : Word) : s.onlyResult (s.result d x) := by
  cases d with
  | reg n =>
    exact s.onlyResult_setInst _ (Inst.onlyStreams_trans (Inst.onlyStreams_setG ..) (Inst.onlyStreams_push ..))
      (fun y hy => (Inst.push_get_ne _ _ _ hy).trans (Inst.setG_get_ne _ _ _ _ hy))
      (StreamSt.onlyResult_trans (Inst.setG_get_same ..) (Inst.push_get_same ..))
  | push =>
    exact s.onlyResult_setInst _ (Inst.onlyStreams_push ..) (fun y hy => Inst.push_get_ne _ _ _ hy)
      (Inst.push_get_same ..)

/-- The registers of a stream but a destination read as before a result. -/
theorem State.keepsG_result (s : State) (d : Dst) (x : Word) : s.keepsG (s.result d x) d := by
  intro n hn
  have hp : ∀ (i : Inst) (v : Vec), (i.push s.stream v).g s.stream n = i.g s.stream n := by
    intro i v
    simp only [Inst.push]
    split
    · rfl
    · simp [Inst.g]
  cases d with
  | push => simp [State.result, hp]
  | reg m =>
    have hm : n.val ≠ m.val := fun h => hn (by simp [Fin.ext h])
    simp only [State.result, State.inst_setInst, hp]
    unfold Inst.setG
    split
    · rfl
    · split
      · simp [Inst.g, Inst.handling, SMap.get_set_ne _ _ _ hm]
      · simp [Inst.g, SMap.get_set_ne _ _ _ hm]

theorem State.count_eq (s : State) (core ev n : Nat) :
    s.count core ev n = s ∨ ∃ perf, s.count core ev n = s.setPlot (plotOf core) { s.plotAt (plotOf core) with perf := perf } := by
  simp only [State.count]
  split
  · exact .inl rfl
  · exact .inr ⟨_, rfl⟩

/-- Counting changes nothing but performance counters. -/
theorem State.onlyResult_count (s : State) (ev n : Nat) (h : s.self.act.isSome = true) :
    s.onlyResult (s.count s.core ev n) := by
  rcases s.count_eq s.core ev n with e | ⟨p, e⟩
  · rw [e]; exact s.onlyResult_refl h
  · rw [e]
    exact ⟨rfl, ⟨rfl, fun _ _ => rfl, fun _ hk => by simp [hk], by simp⟩,
      (Core.setAct_self _ h).symm, rfl, fun _ _ => rfl, rfl⟩

@[simp] theorem State.count_inst (s : State) (core ev n : Nat) : (s.count core ev n).inst = s.inst := by
  rcases s.count_eq core ev n with e | ⟨p, e⟩
  · rw [e]
  · rw [e]; rfl
@[simp] theorem State.count_self (s : State) (core ev n : Nat) : (s.count core ev n).self = s.self := by
  rcases s.count_eq core ev n with e | ⟨p, e⟩
  · rw [e]
  · rw [e]; rfl
@[simp] theorem State.count_str (s : State) (core ev n : Nat) : (s.count core ev n).str = s.str := by
  rcases s.count_eq core ev n with e | ⟨p, e⟩
  · rw [e]
  · rw [e]; rfl
@[simp] theorem State.count_core (s : State) (core ev n : Nat) : (s.count core ev n).core = s.core := by
  rcases s.count_eq core ev n with e | ⟨p, e⟩
  · rw [e]
  · rw [e]; rfl
@[simp] theorem State.count_stream (s : State) (core ev n : Nat) : (s.count core ev n).stream = s.stream := by
  rcases s.count_eq core ev n with e | ⟨p, e⟩
  · rw [e]
  · rw [e]; rfl
@[simp] theorem State.count_mem (s : State) (core ev n : Nat) : (s.count core ev n).mem = s.mem := by
  rcases s.count_eq core ev n with e | ⟨p, e⟩
  · rw [e]
  · rw [e]; rfl

/-- The pc's advance changes its stream only. -/
theorem State.onlyResult_advance (s : State) (pc : Word) : s.onlyResult (s.advance pc) :=
  s.onlyResult_setStr _ rfl

/-- A post raises one count and moves the rings' cursors (R11, R18). -/
theorem Inst.post_eq {i j : Inst} {n : Fin 32} {amt : Nat} (h : i.post n amt = .ok j) :
    i.sound [.sem n] = .ok () ∧ i.semOf n + amt ≤ 65535 ∧
      j = { i.setSem n (i.semOf n + amt) with rings := j.rings } := by
  unfold Inst.post at h
  cases hs : i.sound [.sem n] with
  | error t => rw [hs] at h; cases h
  | ok u =>
    rw [hs] at h
    simp only [bind, Except.bind] at h
    split at h
    · cases h
    · cases h; exact ⟨rfl, by omega, rfl⟩

/-- A post raises one count, or its overflow leaves the instance as it was (R11). -/
theorem Inst.post_ok {i j : Inst} {n : Fin 32} {amt : Nat} (h : i.post n amt = .ok j) :
    i.semOf n + amt ≤ 65535 ∧ i.onlyStreams j ∧ j.streams = i.streams ∧
      ∀ k, j.semOf k = if k = n then i.semOf n + amt else i.semOf k := by
  obtain ⟨-, hle, e⟩ := Inst.post_eq h
  rw [e]
  refine ⟨hle, rfl, rfl, fun k => ?_⟩
  by_cases hk : k = n
  · subst hk; simp [Inst.semOf, Inst.setSem] at *; omega
  · have : k.val ≠ n.val := fun e => hk (Fin.ext e)
    simp [Inst.semOf, Inst.setSem, hk, SMap.get_set_ne _ _ _ this]

/-- A post that is not made: its count would overflow (R11), or cannot be read (R302). -/
theorem Inst.post_error {i : Inst} {n : Fin 32} {amt : Nat} {t : Trap} (h : i.post n amt = .error t) :
    i.sound [.sem n] = .error t ∨
      (i.sound [.sem n] = .ok () ∧ 65535 < i.semOf n + amt ∧ t = ⟨.semOvf, postAddr n amt⟩) := by
  unfold Inst.post at h
  cases hs : i.sound [.sem n] with
  | error u => rw [hs] at h; cases h; exact .inl rfl
  | ok u =>
    rw [hs] at h
    simp only [bind, Except.bind] at h
    split at h
    · next hlt => cases h; exact .inr ⟨rfl, hlt, rfl⟩
    · cases h

/-- What leaves an engine queue changes the queue, and of the instance a count and the rings' cursors. -/
theorem Inst.drainOne_eq {st : Stream} {i j : Inst} {o : Option Trap} (h : i.drainOne st = some (j, o)) :
    ∃ sem rings bad q n, j = ({ i with sem := sem, rings := rings, bad := bad }).modStr st fun x =>
      { x with eq := q, eqDone := x.eqDone + n } := by
  simp only [Inst.drainOne] at h
  split at h
  · cases h; exact ⟨i.sem, i.rings, i.bad, _, 1, rfl⟩
  · cases h; exact ⟨i.sem, i.rings, i.bad, _, 1, rfl⟩
  · split at h
    · cases h; exact ⟨i.sem, i.rings, i.bad, _, 1, rfl⟩
    · next k _ hk =>
      cases h
      obtain ⟨-, -, e⟩ := Inst.post_eq hk
      rw [e]
      exact ⟨_, k.rings, _, _, 0, rfl⟩
    · cases h; exact ⟨i.sem, i.rings, i.bad, _, 1, rfl⟩
  · cases h

/-- What settling the executing stream's engine queue comes to: its queue, posts and ring cursors move on,
until it ends or a post stops the instance. -/
theorem State.drain_cases (n : Nat) (s : State) (h : s.self.act.isSome = true) :
    s.onlyResult (s.drain s.stream n) ∧ s.keepsG (s.drain s.stream n) .push ∧ s.keepsAge (s.drain s.stream n) ∨
    ∃ u t, s.onlyResult u ∧ s.keepsG u .push ∧ s.keepsAge u ∧ u.inst.phase.live = true ∧
      s.drain s.stream n = u.stop s.stream t := by
  induction n generalizing s with
  | zero => exact .inl ⟨s.onlyResult_refl h, fun _ _ => rfl, rfl⟩
  | succ n ih =>
    have go : ∀ (j : Inst) (o : Option Trap), s.inst.drainOne s.stream = some (j, o) →
        s.onlyResult (s.setInst j) ∧ s.keepsG (s.setInst j) .push ∧ s.keepsAge (s.setInst j) ∧
          j.phase = s.inst.phase := by
      intro j o hj
      obtain ⟨sem, rings, bad, q, k, rfl⟩ := Inst.drainOne_eq hj
      refine ⟨s.onlyResult_setInst _ rfl (fun y hy => by rw [Inst.modStr_get_ne _ _ hy])
        (by simp [StreamSt.onlyResult, State.str]), ?_, ?_, rfl⟩
      · intro m _; simp [Inst.g, Inst.handling]
      · simp [State.keepsAge, Inst.ages, Inst.handling]
    simp only [State.drain]
    split
    · exact .inl ⟨s.onlyResult_refl h, fun _ _ => rfl, rfl⟩
    · next j hj =>
      obtain ⟨a1, a2, a3, -⟩ := go j none hj
      rcases ih (s.setInst j) (by simp) with ⟨b1, b2, b3⟩ | ⟨u, t, b1, b2, b3, b4, b5⟩
      · exact .inl ⟨State.onlyResult_trans a1 b1, fun m hm => (b2 m hm).trans (a2 m hm), b3.trans a3⟩
      · exact .inr ⟨u, t, State.onlyResult_trans a1 b1, fun m hm => (b2 m hm).trans (a2 m hm), b3.trans a3, b4, b5⟩
    · next j t hj =>
      obtain ⟨a1, a2, a3, a4⟩ := go j (some t) hj
      split
      · next hl => exact .inr ⟨_, t, a1, a2, a3, by simpa [a4] using hl, rfl⟩
      · exact .inl ⟨s.onlyResult_refl h, fun _ _ => rfl, rfl⟩

/-- Settling ends, or a post of it stops the instance. -/
theorem State.settle_cases (s : State) (h : s.self.act.isSome = true) :
    s.onlyResult (s.settle s.stream) ∧ s.keepsG (s.settle s.stream) .push ∧ s.keepsAge (s.settle s.stream) ∨
    ∃ u t, s.onlyResult u ∧ s.keepsG u .push ∧ s.keepsAge u ∧ u.inst.phase.live = true ∧
      s.settle s.stream = u.stop s.stream t := State.drain_cases _ s h

theorem State.onlyResult.stream {s t : State} (h : s.onlyResult t) : t.stream = s.stream := h.2.1.stream
theorem State.onlyResult.core {s t : State} (h : s.onlyResult t) : t.core = s.core := h.2.1.core
theorem State.onlyResult.act {s t : State} (h : s.onlyResult t) : t.self.act.isSome = true := by
  rw [h.2.2.1]; simp
theorem State.onlyResult.phase {s t : State} (h : s.onlyResult t) : t.inst.phase = s.inst.phase := by
  rw [← h.2.2.2.1]
theorem State.onlyResult.inhnd {s t : State} (h : s.onlyResult t) : t.inst.inhnd = s.inst.inhnd := by
  rw [← h.2.2.2.1]
theorem State.onlyResult.nmask {s t : State} (h : s.onlyResult t) : t.inst.nmask = s.inst.nmask := by
  rw [← h.2.2.2.1]

theorem State.keepsG_trans {s t u : State} {d : Dst} (h : s.stream = t.stream) (a : s.keepsG t d) (b : t.keepsG u d) :
    s.keepsG u d := fun n hn => by have := b n hn; rw [← h] at this; exact this.trans (a n hn)

theorem State.keepsG_push {s t : State} {d : Dst} (a : s.keepsG t .push) : s.keepsG t d := fun n _ => a n nofun

theorem State.keepsAge_trans {s t u : State} (h : s.stream = t.stream) (a : s.keepsAge t) (b : t.keepsAge u) :
    s.keepsAge u := by unfold State.keepsAge at *; rw [← h] at b; exact b.trans a

/-- What completing comes to: the pc moves, posts are made, and nothing else changes but what a result may;
or a post of it stops the instance once the pc has moved. -/
theorem State.complete_cases (s : State) (pc : Word) (adds : List (Fin 32 × Nat)) :
    s.onlyResult (s.complete pc adds) ∧ s.keepsG (s.complete pc adds) .push ∧ s.keepsAge (s.complete pc adds) ∨
    ∃ u a, s.onlyResult u ∧ s.keepsG u .push ∧ s.keepsAge u ∧ u.inst.phase.live = true ∧
      s.complete pc adds = u.stop s.stream a := by
  have ha : s.onlyResult (s.advance pc) := s.onlyResult_advance pc
  have hc : s.onlyResult ((s.advance pc).count s.core 2 1) := by
    have := State.onlyResult_count (s.advance pc) 2 1 ha.act
    rw [ha.core] at this
    exact State.onlyResult_trans ha this
  have hg : s.keepsG ((s.advance pc).count s.core 2 1) .push := fun n _ => by
    simp [State.advance, Inst.g, Inst.handling, Inst.setStr, State.str]
  have hq : s.keepsAge ((s.advance pc).count s.core 2 1) := by
    simp [State.keepsAge, State.advance, Inst.ages, Inst.handling, Inst.setStr, State.str]
  simp only [State.complete]
  by_cases he : adds = []
  · rw [if_pos he]; exact .inl ⟨hc, hg, hq⟩
  · rw [if_neg he]
    simp only [State.postBehind]
    generalize (s.advance pc).count s.core 2 1 = c at *
    have h1 : c.onlyResult (c.setInst (c.inst.modStr c.stream fun x => { x with eq := x.eq ++ [.post adds] })) :=
      c.onlyResult_setInst _ rfl (fun y hy => Inst.modStr_get_ne _ _ hy) (by simp [StreamSt.onlyResult, State.str])
    have hg1 : c.keepsG (c.setInst (c.inst.modStr c.stream fun x => { x with eq := x.eq ++ [.post adds] })) .push :=
      fun n _ => by simp [Inst.g]
    have hq1 : c.keepsAge (c.setInst (c.inst.modStr c.stream fun x => { x with eq := x.eq ++ [.post adds] })) := by
      simp [State.keepsAge, Inst.ages]
    have hs := hc.stream.symm
    have hes : c.stream = (c.setInst (c.inst.modStr c.stream fun x => { x with eq := x.eq ++ [.post adds] })).stream := rfl
    generalize c.setInst (c.inst.modStr c.stream fun x => { x with eq := x.eq ++ [.post adds] }) = e at *
    rw [hes]
    have hk : s.keepsG e .push := State.keepsG_trans hs hg hg1
    have hl : s.keepsAge e := State.keepsAge_trans hs hq hq1
    have ht := hs.trans hes
    rcases State.settle_cases e h1.act with ⟨a1, a2, a3⟩ | ⟨u, a, a1, a2, a3, a4, a5⟩
    · exact .inl ⟨State.onlyResult_trans hc (State.onlyResult_trans h1 a1),
        State.keepsG_trans ht hk a2, State.keepsAge_trans ht hl a3⟩
    · exact .inr ⟨u, a, State.onlyResult_trans hc (State.onlyResult_trans h1 a1),
        State.keepsG_trans ht hk a2, State.keepsAge_trans ht hl a3, a4, by rw [ht]; exact a5⟩

/-- What stopping the streams may change of an instance. -/
def Inst.stoppedAs (i j : Inst) : Prop :=
  { i with streams := j.streams, sem := j.sem, rings := j.rings, waits := j.waits, ldlq := j.ldlq,
           waiti := j.waiti, store := j.store, lagN := j.lagN, bad := j.bad } = j

theorem Inst.stoppedAs_trans {i j k : Inst} (h : i.stoppedAs j) (l : j.stoppedAs k) : i.stoppedAs k := by
  unfold Inst.stoppedAs at *
  rw [← l, ← h]

theorem Inst.unlock_stoppedAs (i : Inst) (st : Stream) (w : List (Loc × Byte)) : i.stoppedAs (i.unlock st w) := by
  unfold Inst.unlock; split <;> rfl

/-- The executing core's shown instance changed as stopping the streams may, and nothing else of the core. -/
def State.stops (s t : State) : Prop :=
  t.self = s.self.setAct t.inst ∧ t.core = s.core ∧ t.stream = s.stream ∧ s.inst.stoppedAs t.inst

theorem State.stops_refl (s : State) (h : s.self.act.isSome = true) : s.stops s :=
  ⟨(Core.setAct_self _ h).symm, rfl, rfl, rfl⟩

theorem State.stops_trans {s t u : State} (h : s.stops t) (k : t.stops u) : s.stops u := by
  obtain ⟨h1, h2, h3, h4⟩ := h
  obtain ⟨k1, k2, k3, k4⟩ := k
  exact ⟨by rw [k1, h1, Core.setAct_setAct], k2.trans h2, k3.trans h3, Inst.stoppedAs_trans h4 k4⟩

theorem State.stops_setInst (s : State) (i : Inst) (h : s.inst.stoppedAs i) : s.stops (s.setInst i) :=
  ⟨by simp, rfl, rfl, by simpa using h⟩

theorem State.stops.act {s t : State} (h : s.stops t) : t.self.act.isSome = true := by rw [h.1]; simp

theorem State.stops_poke (s : State) (l : Loc) (b : Byte) : s.stops (s.poke l b) := by
  obtain ⟨h, -⟩ := s.poke_eq l b
  rw [h]
  refine State.stops_setInst { s with mem := (s.poke l b).mem } _ ?_
  cases l <;> rfl

theorem State.stops_puts (l : List (Loc × Byte)) (s : State) (h : s.self.act.isSome = true) : s.stops (s.puts l) := by
  have k : ∀ (l : List (Loc × Byte)) (s : State), s.self.act.isSome = true →
      s.stops (l.foldl (fun s p => s.poke p.1 p.2) s) := by
    intro l
    induction l with
    | nil => exact fun s h => s.stops_refl h
    | cons p t ih =>
      intro s h
      have k := s.stops_poke p.1 p.2
      exact State.stops_trans k (ih _ k.act)
  exact k l s h

theorem State.stops_pokes (w : Option Writer) (l : List (Loc × Byte)) (s : State) (h : s.self.act.isSome = true) :
    s.stops (s.pokes w l) := by
  cases w with
  | none => exact State.stops_trans (t := s.seen _) (s.stops_refl h) (State.stops_puts _ _ h)
  | some x =>
    have k : ∀ l, s.stops (s.lagged x l) := fun l => s.stops_setInst { s.inst with lagN := s.inst.lagN + 1 } rfl
    exact State.stops_trans (k _) (State.stops_puts _ _ (k _).act)

theorem State.stops_performEl (st : Stream) (pos : Nat) (u : Bool) (e : List (Loc × Byte)) (s : State)
    (h : s.self.act.isSome = true) : s.stops (s.performEl st pos u e) := by
  have k := State.stops_pokes (some ⟨st, pos⟩) e s h
  simp only [State.performEl]
  split
  · exact State.stops_trans k (State.stops_setInst _ _ (Inst.unlock_stoppedAs _ _ _))
  · exact k

/-- A fold of operations that stop nothing but what stopping may. -/
theorem State.stops_foldl {α : Type} (f : State → α → State)
    (hf : ∀ (s : State) (a : α), s.self.act.isSome = true → s.stops (f s a)) (l : List α) :
    ∀ s : State, s.self.act.isSome = true → s.stops (l.foldl f s) := by
  induction l with
  | nil => exact fun s h => s.stops_refl h
  | cons a t ih => exact fun s h => State.stops_trans (hf s a h) (ih _ (hf s a h).act)

theorem State.stops_performHeld (s : State) (st : Stream) (h : s.self.act.isSome = true) :
    s.stops (s.performHeld st) := by
  simp only [State.performHeld]
  refine State.stops_trans (State.stops_foldl _ (fun s p hs => ?_) _ s h) (State.stops_setInst _ _ rfl)
  obtain ⟨it, k⟩ := p
  cases it with
  | store r u els =>
    dsimp only
    split
    · exact s.stops_refl hs
    · exact State.stops_foldl _ (fun s e hs => State.stops_performEl _ _ _ _ s hs) els s hs
  | _ => exact s.stops_refl hs

theorem Inst.giveBacks_stoppedAs (l : List (Fin 32 × Nat)) : ∀ i : Inst, i.stoppedAs (l.foldl Inst.giveBack i) := by
  induction l with
  | nil => exact fun i => rfl
  | cons a t ih =>
    intro i
    have k : i.stoppedAs (i.giveBack a) := rfl
    exact Inst.stoppedAs_trans k (ih _)

theorem Inst.haltStr_stoppedAs (i : Inst) (st : Stream) : i.stoppedAs (i.haltStr st) := by
  have h1 := Inst.giveBacks_stoppedAs (i.streams.get st).got i
  simp only [Inst.haltStr]
  generalize List.foldl Inst.giveBack i (i.streams.get st).got = j at *
  have h2 : j.stoppedAs (if (i.streams.get st).join.isSome then j.dropMarkers st else j) := by split <;> rfl
  generalize (if (i.streams.get st).join.isSome = true then j.dropMarkers st else j) = k at *
  exact Inst.stoppedAs_trans (Inst.stoppedAs_trans h1 h2) rfl

theorem State.stops_haltStr (s : State) (st : Stream) : s.stops (s.haltStr st) := by
  have k := s.stops_setInst _ (s.inst.haltStr_stoppedAs st)
  simp only [State.haltStr]
  generalize s.setInst (s.inst.haltStr st) = t at *
  refine State.stops_trans k ⟨?_, ?_, ?_, ?_⟩
  · rw [State.count_self, State.count_inst]; exact (Core.setAct_self _ k.act).symm
  · simp
  · simp
  · simp [Inst.stoppedAs]

/-- Stopping the streams leaves the instance's mode, special and vector registers as they are, and the rest
of its core. -/
theorem State.stops_halt (s : State) (h : s.self.act.isSome = true) : s.stops s.halt := by
  have h1 := State.stops_foldl State.performHeld (fun s st => s.stops_performHeld st) streams s h
  simp only [State.halt]
  generalize streams.foldl State.performHeld s = e at *
  have h2 := State.stops_foldl State.haltStr (fun s st _ => s.stops_haltStr st) streams e h1.act
  generalize streams.foldl State.haltStr e = f at *
  have h3 : f.inst.stoppedAs
      { f.inst with waits := f.inst.waits.filter (!·.1.isInstr), ldlq := [], waiti := none } := rfl
  exact State.stops_trans (State.stops_trans h1 h2) (f.stops_setInst _ h3)

/-- What leaves an engine queue leaves the instance's phase and mode. -/
theorem Inst.drainOne_keeps {st : Stream} {i j : Inst} {o : Option Trap} (h : i.drainOne st = some (j, o)) :
    j.phase = i.phase ∧ j.inhnd = i.inhnd := by
  obtain ⟨_, _, _, _, _, rfl⟩ := Inst.drainOne_eq h; exact ⟨rfl, rfl⟩

@[inherit_doc Inst.drainOne_keeps]
theorem Inst.flush_keeps (st : Stream) (n : Nat) : ∀ i : Inst, (i.flush st n).phase = i.phase ∧ (i.flush st n).inhnd = i.inhnd := by
  induction n with
  | zero => exact fun _ => ⟨rfl, rfl⟩
  | succ n ih =>
    intro i
    simp only [Inst.flush]
    split
    · next j hj =>
      have k := Inst.drainOne_keeps hj
      exact ⟨(ih j).1.trans k.1, (ih j).2.trans k.2⟩
    · exact ⟨rfl, rfl⟩

@[inherit_doc Inst.drainOne_keeps]
theorem Inst.flushAll_keeps (i : Inst) : i.flushAll.phase = i.phase ∧ i.flushAll.inhnd = i.inhnd := by
  have k : ∀ (l : List Stream) (i : Inst), (l.foldl (fun i st => i.flush st (i.drainLen st)) i).phase = i.phase ∧
      (l.foldl (fun i st => i.flush st (i.drainLen st)) i).inhnd = i.inhnd := by
    intro l
    induction l with
    | nil => exact fun _ => ⟨rfl, rfl⟩
    | cons a l ih =>
      intro i
      have h := Inst.flush_keeps a (i.drainLen a) i
      exact ⟨(ih _).1.trans h.1, (ih _).2.trans h.2⟩
  exact k Machine.streams i

@[inherit_doc Inst.drainOne_keeps]
theorem Inst.quiesce_inhnd (i : Inst) : i.quiesce.inhnd = i.inhnd := by
  simp only [Inst.quiesce]; repeat' split
  all_goals rfl

/-- A stop shows: the instance is STOPPED. -/
theorem State.stop_phase (s : State) (st : Stream) (t : Trap) :
    (s.stop st t).inst.phase = .stopped (s.halt.inst.phase == .draining) := by
  simp only [State.stop, State.inst, State.self, State.setCore_core, State.coreAt_setCore_same, Core.frame,
    Core.act_setAct, Option.getD_some, (Inst.flushAll_keeps _).1]

@[inherit_doc State.stop_phase]
theorem State.stop_shows (s : State) (st : Stream) (t : Trap) (h : s.inst.phase.live = true) :
    (s.stop st t).inst.phase ≠ s.inst.phase := by
  rw [s.stop_phase st t]
  intro hx
  rw [← hx] at h
  cases h

/-- Stopping leaves an instance in or outside the job's handler. -/
theorem State.stop_inhnd (s : State) (st : Stream) (t : Trap) (h : s.self.act.isSome = true) :
    (s.stop st t).inst.inhnd = s.inst.inhnd := by
  obtain ⟨-, -, -, hs⟩ := s.stops_halt h
  have e : (s.stop st t).inst.inhnd = s.halt.inst.flushAll.quiesce.inhnd := by
    simp only [State.stop, State.inst, State.self, State.setCore_core, State.coreAt_setCore_same, Core.frame,
      Core.act_setAct, Option.getD_some]
  rw [e, Inst.quiesce_inhnd, (Inst.flushAll_keeps _).2, ← hs]

/-- Settling a stream's queue leaves the instance in or outside the job's handler. -/
theorem State.drain_inhnd (st : Stream) (n : Nat) (s : State) (h : s.self.act.isSome = true) :
    (s.drain st n).inst.inhnd = s.inst.inhnd ∧ (s.drain st n).self.act.isSome = true := by
  induction n generalizing s with
  | zero => exact ⟨rfl, h⟩
  | succ n ih =>
    simp only [State.drain]
    split
    · exact ⟨rfl, h⟩
    · next j hj =>
      have := ih (s.setInst j) (by simp)
      simpa [(Inst.drainOne_keeps hj).2] using this
    · next j t hj =>
      split
      · refine ⟨(State.stop_inhnd _ _ _ (by simp)).trans (by simp [(Inst.drainOne_keeps hj).2]), ?_⟩
        simp [State.stop, State.self, Core.frame]
      · exact ⟨rfl, h⟩

/-- A raised cause shows: the instance stopped, or it entered the job's handler. -/
theorem State.raise_shows (s : State) (st : Stream) (t : Trap) (arg : Byte)
    (h : s.inst.phase.live = true) :
    (s.raise st t arg).inst.phase ≠ s.inst.phase ∨ (s.raise st t arg).inst.inhnd ≠ s.inst.inhnd := by
  simp only [State.raise]
  split
  · next hc =>
    refine .inr ?_
    have hs : ∀ (l : List Stream) (e : State), e.self.act.isSome = true →
        (l.foldl (fun s st => if s.inst.phase.live then s.settle st else s) e).inst.inhnd = e.inst.inhnd := by
      intro l
      induction l with
      | nil => exact fun _ _ => rfl
      | cons st l ih =>
        intro e he
        rw [List.foldl_cons]
        split
        · have := e.drain_inhnd st (e.inst.drainLen st) he
          exact (ih _ this.2).trans this.1
        · exact ih _ he
    unfold State.settleAll
    rw [hs streams _ (by simp), State.inst_setInst]
    have k : ((s.halt).inst.handler st t.cause arg).inhnd = true := rfl
    rw [k]
    intro hx
    simp [← hx] at hc
  · exact .inl (s.stop_shows st t h)

/-- A wait that was granted changes its semaphore's count and the record of it (R12). -/
theorem State.acquire_frame {s e : State} {k : Nat} {n : Fin 32} {amt : Nat} (h : s.self.act.isSome = true)
    (he : s.acquire k n amt = .ok (some e)) : s.onlyResult e ∧ s.keepsG e .push ∧ s.keepsAge e ∧ s.keepsSem e [n] := by
  unfold State.acquire at he
  split at he
  · cases he; exact ⟨s.onlyResult_refl h, fun _ _ => rfl, rfl, fun _ _ => rfl⟩
  · unfold Inst.tryWait at he
    cases hs : s.inst.sound [.sem n] with
    | error t => rw [hs] at he; cases he
    | ok u =>
      rw [hs] at he
      split at he
      · cases he
      cases he
      refine ⟨s.onlyResult_setInst _ rfl (fun y hy => Inst.modStr_get_ne _ _ hy) ?_, ?_, ?_, ?_⟩
      · simp [StreamSt.onlyResult, State.str, Inst.setSem]
      · intro m _; simp [Inst.g, Inst.setSem, Inst.handling]
      · simp [State.keepsAge, Inst.ages, Inst.setSem, Inst.handling]
      · intro m hm
        have : m.val ≠ n.val := fun e => hm (by simp [Fin.ext e])
        simp [Inst.semOf, Inst.setSem, SMap.get_set_ne _ _ _ this]

theorem State.issues_act {s : State} (h : s.issues = true) : s.self.act.isSome = true := by
  simp only [State.issues, Bool.and_eq_true] at h; exact h.1

theorem State.issues_live {s : State} (h : s.issues = true) : s.inst.phase.live = true := by
  simp only [State.issues, Inst.issues, Bool.and_eq_true] at h; exact h.2.1.1.1.1.1.1.1

/-- Claims of an instance that pre-empts none change nothing (R296). -/
theorem State.claims_none (s : State) (l : List Unit_) (h : s.self.pre = none) : s.claims s.core l = .ok s := by
  have hc : ∀ u, s.claim s.core u = .ok s := by
    intro u
    unfold State.self at h
    simp [State.claim, h]
  induction l with
  | nil => rfl
  | cons u t ih =>
    simp only [State.claims, List.foldlM_cons, hc, bind, Except.bind] at *
    exact ih

/-- What stands before a ready instruction's own effect: its wait, where it claims nothing. -/
theorem State.ready_frame {s s1 : State} {i : Instr} (h : s.ready i s1) (hu : unitsOf i = [] ∨ s.self.pre = none) :
    s.onlyResult s1 ∧ s.keepsG s1 .push ∧ s.keepsAge s1 ∧ s.keepsSem s1 [i.head.wsem] := by
  obtain ⟨h1, -, s0, h2, -, -, h3⟩ := h
  have k := State.acquire_frame (State.issues_act h1) h2
  have e : s0 = s1 := by
    have hc : s0.claims s0.core (unitsOf i) = .ok s0 := by
      rcases hu with hu | hu
      · rw [hu]; rfl
      · refine s0.claims_none _ ?_
        rw [k.1.2.2.1]
        simp [Core.setAct, hu]
    rw [hc] at h3; cases h3; rfl
  rw [← e]; exact k

/-- An instruction that completed and raised nothing changed what its own effect did and what completing
may. -/
theorem State.complete_frame {s e : State} {pc : Word} {adds : List (Fin 32 × Nat)} (he : s.onlyResult e)
    (hr : s.unraised (e.complete pc adds)) :
    e.onlyResult (e.complete pc adds) ∧ e.keepsG (e.complete pc adds) .push ∧ e.keepsAge (e.complete pc adds) := by
  rcases e.complete_cases pc adds with h | ⟨u, a, h1, -, -, h4, h5⟩
  · exact h
  · exfalso
    have hu : s.onlyResult u := State.onlyResult_trans he h1
    rw [h5] at hr
    exact u.stop_shows e.stream a h4 (hr.1.trans hu.phase.symm)

end Sys2Proof.Machine
end

