-- ==== Sys2Proof/Laws/Lookup.lean ====
section
/-! SUPPORT. What looking up addresses in a TLB may change. -/

namespace Sys2Proof.Machine

/-- Nothing differs but TLB entries and performance counters. -/
def State.onlyLooked (s t : State) : Prop :=
  { t with cores := s.cores, plots := s.plots } = s ∧
    (∀ k, { t.coreAt k with tlb := [] } = { s.coreAt k with tlb := [] }) ∧
    ∀ k, { t.plotAt k with perf := [] } = { s.plotAt k with perf := [] }

theorem State.onlyLooked_refl (s : State) : s.onlyLooked s := ⟨rfl, fun _ => rfl, fun _ => rfl⟩

theorem State.onlyLooked_trans {s t u : State} (h : s.onlyLooked t) (k : t.onlyLooked u) : s.onlyLooked u :=
  ⟨by rw [← h.1, ← k.1], fun n => (k.2.1 n).trans (h.2.1 n), fun n => (k.2.2 n).trans (h.2.2 n)⟩

theorem State.onlyLooked_foldl {α : Type} (f : State → α → State) (h : ∀ (s : State) (a : α), s.onlyLooked (f s a)) (l : List α)
    (s : State) : s.onlyLooked (l.foldl f s) := by
  induction l generalizing s with
  | nil => exact s.onlyLooked_refl
  | cons a t ih => exact State.onlyLooked_trans (h s a) (ih _)

theorem State.onlyLooked_count (s : State) (core ev n : Nat) : s.onlyLooked (s.count core ev n) := by
  rcases s.count_eq core ev n with h | ⟨p, h⟩ <;> rw [h]
  · exact s.onlyLooked_refl
  · refine ⟨rfl, fun _ => rfl, fun k => ?_⟩
    by_cases hk : k = plotOf core
    · subst hk; simp
    · simp [hk]

theorem State.onlyLooked_fill (s : State) (core va : Nat) : s.onlyLooked (s.fill core va) := by
  simp only [State.fill]
  split
  · split
    · exact s.onlyLooked_refl
    · refine ⟨rfl, fun k => ?_, fun _ => rfl⟩
      by_cases hk : k = core
      · subst hk; simp
      · simp [hk]
  · exact s.onlyLooked_refl

theorem State.onlyLooked_lookUp (s : State) (core a : Nat) : s.onlyLooked (s.lookUp core a) := by
  simp only [State.lookUp]
  split
  · split
    · exact s.onlyLooked_refl
    · exact State.onlyLooked_trans (s.onlyLooked_fill _ _) (State.onlyLooked_count _ _ _ _)
  · exact s.onlyLooked_refl

/-- Looking addresses up changes a TLB and counts misses, and does nothing else (R97, R284). -/
theorem State.onlyLooked_lookUps (s : State) (core : Nat) (l : List (Nat × Nat)) : s.onlyLooked (s.lookUps core l) :=
  State.onlyLooked_foldl _ (fun s _ => State.onlyLooked_foldl _ (fun s _ => s.onlyLooked_lookUp _ _) _ s) l s

end Sys2Proof.Machine
end

