-- ==== Sys2Proof/Laws/Vector.lean ====
section
/-! SUPPORT. Lane-wise results: what a vector instruction writes when every lane it computes has a value. -/

namespace Sys2Proof.Machine

/-- The lanes and flags of a result all of whose computed lanes have values. -/
theorem mapLanes_ok (on : Nat → Bool) (old : Nat → Nat) (f : Nat → T (Nat × Flags)) (r : Nat → Nat × Flags)
    (l : List Nat) (h : ∀ k ∈ l, on k = true → f k = .ok (r k)) :
    mapLanes on old f l = .ok (l.map fun k => if on k then (r k).1 else old k,
      l.foldr (fun k g => (if on k then (r k).2 else 0) ||| g) 0) := by
  induction l with
  | nil => rfl
  | cons i t ih =>
    have iht := ih fun k hk => h k (List.mem_cons_of_mem _ hk)
    by_cases ho : on i = true
    · have hi := h i List.mem_cons_self ho
      simp [mapLanes, ho, hi, iht, bind, Except.bind]
    · simp [mapLanes, ho, iht, bind, Except.bind]

/-- A vector instruction all of whose computed lanes have values. -/
theorem State.someLanes_ok (s : State) (on : Nat → Bool) (ty : Ty) (d : Dst) (f : Nat → T (Nat × Flags))
    (r : Nat → Nat × Flags) (h : ∀ k, k < ty.lanes → on k = true → f k = .ok (r k)) :
    s.someLanes on ty d f = .ok (s.lanesDone on ty d r) := by
  have hm := mapLanes_ok on (fun i => lane (s.vold d) i ty.width) f r (List.range ty.lanes)
    fun k hk => h k (List.mem_range.mp hk)
  simp only [State.someLanes, hm, bind, Except.bind]
  rfl

/-- A lane-wise instruction all of whose active lanes have values. -/
theorem State.lanewise_ok (s : State) (m : Fin 8) (ty : Ty) (d : Dst) (f : Nat → T (Nat × Flags))
    (r : Nat → Nat × Flags) (h : ∀ k, k < ty.lanes → s.act m ty.width k = true → f k = .ok (r k)) :
    s.lanewise m ty d f = .ok (s.lanesDone (s.act m ty.width) ty d r) := s.someLanes_ok _ ty d f r h

/-- The result of a ready lane-wise instruction. -/
theorem issue_lanewise {i : Instr} {s s1 : State} {m : Fin 8} {ty : Ty} {d : Dst}
    (f : State → Nat → T (Nat × Flags)) (r : Nat → Nat × Flags) (hr : s.ready i s1)
    (h : ∀ k, k < ty.lanes → s1.act m ty.width k = true → f s1 k = .ok (r k)) :
    issue i s (fun s => .of s (s.lanewise m ty d (f s))) =
      s.completes i (s1.lanesDone (s1.act m ty.width) ty d r) := by
  rw [issue_ready _ hr, s1.lanewise_ok m ty d (f s1) r h]
  rfl

end Sys2Proof.Machine
end

