-- ==== Sys2Proof/Tests/Slice0.lean ====
section
/-! SUPPORT. Small tests: words written out from the encodings decode, ill-formed terms are refused, a few
single steps whose results are worked out from the rules; and for each statement a state and operands
that meet its hypotheses. -/

namespace Sys2Proof.Machine.Tests

-- One theorem after the other: checked side by side they need more threads than there is memory for.
set_option Elab.async false

/-- No wait, no post, no literal. -/
def h0 : Head := ⟨0, 0, 0, 0, .none⟩

/-- A register operand. -/
abbrev g (n : Fin 32) : Src := .reg n

/-- A `%v` operand. -/
abbrev v (n : Fin 32) : VSrc := .reg n

/-- The registers of the streams: a scratchpad address, an address of HBM, 64, and the last place of the
granary; `%g2` holds 0. -/
def regs : SMap Word := [(1, 0x4000000000000000), (3, 0x10000), (4, 64), (5, 0x1FFFFFC0), (6, 2048)]

/-- A RUNNING privileged job on core 0 with every stream active, all registers declared, and the first
GiB of memory mapped to itself. -/
def tst (st : Stream) : State :=
  { stream := st, nextUid := 2,
    mem := [(0x1000, 0x01), (0x1001, 0x20), (0x2000, 0x01), (0x2001, 0x30), (0x3000, 0x3B)],
    cores := [(0, { remapBase := 0x100, remapCnt := 1, main := some { placeInst 1 0x10000 with
      streams := Five.all { pc := 0x10000, active := true, g := regs } } })] }

/-- The same with something changed in the instance. -/
def tstI (st : Stream) (f : Inst → Inst) : State := (tst st).setInst (f (tst st).inst)

/-- The same with `n` unperformed stores in the stream's engine queue. -/
def busy (st : Stream) (n : Nat) : State :=
  tstI st fun i => i.modStr st fun x =>
    { x with eq := (List.range n).map fun k => .store false false [[(.spad (0x8000 + k), 1)]] }

/-- An outcome that is an answer. -/
def isOk {cause answer : Type} (x : Except cause answer) : Bool := x.toOption.isSome

/-- The answer or the cause that `isOk` tells of. -/
theorem isOk_spec {cause answer : Type} (x : Except cause answer) :
    if isOk x then ∃ a, x = .ok a else ∃ e, x = .error e := by
  rcases x with e | a <;> simp [isOk, Except.toOption]

theorem ok_of {cause answer : Type} {x : Except cause answer} (h : isOk x = true) : ∃ a, x = .ok a := by
  simpa [h] using isOk_spec x

theorem error_of {cause answer : Type} {x : Except cause answer} (h : isOk x = false) : ∃ e, x = .error e := by
  simpa [h] using isOk_spec x

/-- A cause that is raised. -/
theorem error_is {α : Type} {x : T α} {c : Cause} (h : (match x with | .ok _ => false | .error t => t.cause == c) = true) :
    ∃ t, x = .error t ∧ t.cause = c := by
  cases x with
  | ok a => cases h
  | error t => exact ⟨t, rfl, beq_iff_eq.1 h⟩

theorem ok_eq {cause answer : Type} {x : Except cause answer} {a : answer} (h : x.toOption = some a) :
    x = .ok a := by
  rcases x with e | b <;> simp_all [Except.toOption]

/-- Each of a list of computations answers what stands beside it. -/
theorem all_answer {α β : Type} [DecidableEq β] {f : α → T β} {l : List (α × β)}
    (h : l.all (fun p => decide ((f p.1).toOption = some p.2)) = true) : ∀ p ∈ l, f p.1 = .ok p.2 :=
  fun p hp => ok_eq (of_decide_eq_true (List.all_eq_true.1 h p hp))

theorem some_of {α : Type} {x : Option α} (h : x.isSome = true) : ∃ a, x = some a := Option.isSome_iff_exists.1 h

/-- The same of a value that passes a test. -/
theorem any_of {α : Type} {x : Option α} {f : α → Bool} (h : x.any f = true) : ∃ a, x = some a ∧ f a = true := by
  cases x with
  | none => cases h
  | some a => exact ⟨a, rfl, h⟩

/-- The instruction is well formed and ready, and starts from the state as it is. -/
def isReady (s : State) (i : Instr) : Bool :=
  i.wf && s.issues && (s.decodeFault i).isNone && i.head.wamt == 0 && !s.latchBusy i && s.self.pre.isNone &&
    isOk (s.inst.sound (spotsOf s.inst i s.stream))

theorem ready_of {i : Instr} {s : State} (h : isReady s i = true) : s.ready i s ∧ s.readyCmd i s := by
  simp only [isReady, Bool.and_eq_true, Option.isNone_iff_eq_none, beq_iff_eq, Bool.not_eq_true'] at h
  obtain ⟨⟨⟨⟨⟨⟨_, h1⟩, h2⟩, h3⟩, h4⟩, h5⟩, h6⟩ := h
  obtain ⟨_, h6⟩ := ok_of h6
  exact ⟨⟨h1, h2, s, by simp [State.acquire, h3], h4, h6, s.claims_none _ h5⟩, h1, h2, h6, s.claims_none _ h5⟩

theorem all_ready {l : List Instr} {s : State} (h : l.all (isReady s) = true) : ∀ i ∈ l, s.ready i s :=
  fun i hi => (ready_of (List.all_eq_true.1 h i hi)).1

theorem all_readyCmd {l : List Instr} {s : State} (h : l.all (isReady s) = true) : ∀ i ∈ l, s.readyCmd i s :=
  fun i hi => (ready_of (List.all_eq_true.1 h i hi)).2

/-- A wait that is granted. -/
theorem granted_of {x : T (Option State)} (h : x.toOption.any (·.isSome) = true) : ∃ e, x = .ok (some e) := by
  rcases x with t | (_ | e)
  · cases h
  · cases h
  · exact ⟨e, rfl⟩

/-- An answer, such as the places of an access, that passes a test. -/
theorem places_of {α : Type} {x : T α} {f : α → Bool} (h : x.toOption.any f = true) :
    ∃ l, x = .ok l ∧ f l = true := by
  cases x with
  | ok l => exact ⟨l, rfl, h⟩
  | error e => cases h

theorem wit_IntegerResults : ∀ i ∈ [Instr.add h0 .i64 (.reg 0) (g 1) (.imm 31), .sub h0 .n8 .push (g 1) (g 2),
    .mul h0 .i16 (.reg 31) (.age 15) (g 2), .mulh h0 .i32 (.reg 1) (g 1) (g 1), .and h0 .n64 (.reg 1) (g 1) (g 1),
    .or h0 .i16 (.reg 1) (g 1) (g 1), .xor h0 .i8 (.reg 1) (g 1) (g 1), .andn h0 .n16 (.reg 1) (g 1) (g 1),
    .shl h0 .i64 (.reg 1) (g 1) (g 1), .shr h0 .i64 (.reg 1) (g 1) (g 1), .sra h0 .i64 (.reg 1) (g 1) (g 1),
    .rot h0 .n32 (.reg 1) (g 1) (g 1), .min h0 .i64 (.reg 1) (g 1) (g 1), .max h0 .i64 (.reg 1) (g 1) (g 1),
    .addx h0 7 .i64 (.reg 1) (g 1) (g 1)], (tst .C).ready i (tst .C) := all_ready (by decide +kernel)

theorem wit_DivisionResults : (∀ i ∈ [Instr.div h0 .i64 (.reg 1) (g 1) (g 2), .rem h0 .i64 (.reg 1) (g 1) (g 2),
      .div h0 .i8 .push (g 1) (.imm 1), .rem h0 .i8 .push (g 1) (.imm 1)], (tst .C).ready i (tst .C)) ∧
    (tst .C).opd h0 .i64 (g 2) = 0 ∧ (tst .C).opd h0 .i8 (.imm 1) ≠ 0 :=
  ⟨all_ready (by decide +kernel), by decide +kernel⟩

theorem wit_UnarySelectAndBitFieldResults : (∀ i ∈ [Instr.mov h0 .i64 (.reg 1) (g 1), .not h0 .i32 (.reg 1) (g 1),
      .neg h0 .n64 (.reg 1) (g 1), .clz h0 .i64 (.reg 1) (g 2), .popc h0 .i8 (.reg 1) (g 1),
      .ctz h0 .i64 (.reg 1) (g 2), .cmp h0 .eq .i64 (.reg 1) (g 2) (g 2), .cmp h0 .ne .i64 (.reg 1) (g 2) (g 2),
      .sel h0 .i64 (.reg 1) (g 1) (g 2) (g 2), .nop h0, .ext h0 .i64 (.reg 1) (g 1) (.imm 0) 63,
      .ext h0 .n64 .push (g 1) (g 2) 0, .ins h0 .i64 (.reg 31) (g 1) (g 4) 63, .ins h0 .n64 (.reg 0) (g 1) (g 2) 0],
      (tst .C).ready i (tst .C)) ∧
    -- the leading and trailing zeros of 0 and of 1
    (0 : Nat) < 2 ^ (64 - 64) ∧ ((1 : Nat) < 2 ^ (64 - 63) ∧ 2 ^ (64 - 63 - 1) ≤ 1) ∧
    (0 : Nat) % 2 ^ 64 = 0 ∧ ((1 : Nat) % 2 ^ 0 = 0 ∧ 1 / 2 ^ 0 % 2 = 1) ∧
    (tst .C).opd h0 .i64 (g 2) = 0 ∧ (tst .C).opd h0 .i64 (g 1) ≠ 0 :=
  ⟨all_ready (by decide +kernel), by decide +kernel⟩

theorem wit_ControlTransferResults : (∀ i ∈ [Instr.br h0 .eq .none false (g 2) (g 2) (.imm 31),
      .br h0 .ne .none true (g 2) (g 2) (.imm 31), .jmp h0 (.imm 1), .call h0 (.reg 1) (.imm 1), .jmpAbs h0 (.imm 8),
      .jmpAbs h0 (.imm 1), .callAbs h0 (.reg 1) (.imm 8), .callAbs h0 (.reg 1) (.imm 1), .ret h0 (.imm 8),
      .ret h0 (.imm 1), .loop h0 (.reg 1) (.imm 2) (.imm 31), .loop h0 (.reg 1) (.imm 1) (.imm 31)],
      (tst .C).ready i (tst .C)) ∧
    ((tst .C).val h0 .i64 (.imm 8)).toNat % 8 = 0 ∧ ((tst .C).val h0 .i64 (.imm 1)).toNat % 8 ≠ 0 ∧
    1 < ((tst .C).val h0 .n64 (.imm 2)).toNat ∧ ((tst .C).val h0 .n64 (.imm 1)).toNat ≤ 1 :=
  ⟨all_ready (by decide +kernel), by decide +kernel⟩

theorem wit_LoadStoreResults :
    (∀ i ∈ [Instr.ld h0 .die true true .b64 (.reg 1) (g 1) (g 2), .st h0 .stream false .b64 (g 1) (g 2) (g 1),
      .pref h0 (g 1) (g 2), .ldl h0 true .b64 (.reg 1) (g 1) (g 2), .stu h0 .b64 (g 1) (g 2) (g 1)],
      (tst .C).ready i (tst .C)) ∧
    (∀ i ∈ [Instr.st h0 .mod true .b8 (g 3) (g 2) (g 1), .stu h0 .b8 (g 1) (g 2) (g 1)],
      (busy .L 15).ready i (busy .L 15)) ∧
    (∃ l, (tst .C).scalarAt .read ((tst .C).addr h0 (g 1) (g 2)) 8 = .ok l ∧ (tst .C).free_ l = true) ∧
    (∃ l, (tst .C).scalarAt .write ((tst .C).addr h0 (g 1) (g 2)) 8 = .ok l ∧ (tst .C).free_ l = true) ∧
    (∃ l, (busy .L 15).scalarAt .write ((busy .L 15).addr h0 (g 3) (g 2)) 1 = .ok l ∧ (busy .L 15).free_ l = true) ∧
    (∃ l, (busy .L 15).scalarAt .write ((busy .L 15).addr h0 (g 1) (g 2)) 1 = .ok l ∧ (busy .L 15).free_ l = true) ∧
    place ((tst .C).addr h0 (g 1) (g 2)) = .local_ 0 ∧
    (busy .L 15).str.stores = 15 ∧ (tst .C).str.unlocking = false ∧
    (let s := (tst .C).setStr { (tst .C).str with lock := none }
     s.lockFree .C (lockOf ((tst .C).addr h0 (g 1) (g 2) % 2 ^ 21)) s.inst.ldlq) = true :=
  ⟨all_ready (by decide +kernel), all_ready (by decide +kernel), places_of (by decide +kernel),
    places_of (by decide +kernel), places_of (by decide +kernel), places_of (by decide +kernel), by decide +kernel⟩

/-- Each atomic at a scratchpad address, and at one of HBM. -/
def amos (a : Src) : List Instr :=
  [.amoAdd h0 true .stream (.reg 1) a (g 1), .amoAnd h0 true .core (.reg 1) a (g 1), .amoOr h0 true .sys (.reg 1) a (g 1),
    .amoXor h0 true .mod (.reg 1) a (g 1), .amoSmin h0 true .die (.reg 1) a (g 1), .amoSmax h0 true .plot (.reg 1) a (g 1),
    .amoUmin h0 true .stream (.reg 1) a (g 1), .amoUmax h0 true .stream (.reg 1) a (g 1),
    .amoSwap h0 true .stream (.reg 1) a (g 1), .amoCas h0 true .stream (.reg 1) a (g 1) (g 2)]

theorem wit_AtomicResults :
    (∀ i ∈ amos (g 1), (tst .S).ready i (tst .S)) ∧ (∀ i ∈ amos (g 3), (tst .C).ready i (tst .C)) ∧
    (∃ l, (tst .S).scalarAt .write ((tst .S).val h0 .i64 (g 1)).toNat 8 = .ok l ∧
      ((tst .S).unheld l && (tst .S).free_ l && isOk ((tst .S).inst.soundAt localBase l)) = true) ∧
    (∃ l, (tst .C).scalarAt .write ((tst .C).val h0 .i64 (g 3)).toNat 8 = .ok l ∧
      ((tst .C).unheld l && (tst .C).free_ l && isOk ((tst .C).inst.soundAt localBase l)) = true) ∧
    (tst .S).str.performed = true ∧ place ((tst .S).val h0 .i64 (g 1)).toNat = .local_ 0 ∧
    (tst .S).tryLock (lockOf 0) = true ∧ (tst .C).str.performed = true ∧
    place ((tst .C).val h0 .i64 (g 3)).toNat = .global 0x10000 :=
  ⟨all_ready (by decide +kernel), all_ready (by decide +kernel), places_of (by decide +kernel),
    places_of (by decide +kernel), by decide +kernel⟩

theorem wit_ControlRegisterResults : ∀ i ∈ [Instr.csrd h0 (.reg 1) 0x10A, .cswr h0 (.reg 1) 0x000 (g 1),
    .csset h0 .push 0x08F (.imm 1), .csclr h0 (.reg 1) 0x100 (g 1)], (tst .V).ready i (tst .V) :=
  all_ready (by decide +kernel)

theorem wit_ControlRegisterFields : (tst .C).self.act.isSome = true ∧ (tst .C).stream = .C ∧
    (tst .L).self.act.isSome = true ∧ (tst .L).stream ≠ .C := by decide +kernel

/-- C in the job's handler, and in a nudge handler. -/
def handler : State := tstI .C fun i => { i with inhnd := true, trappc := 0x20000 }
@[inherit_doc handler] def nudged : State := tstI .C fun i => { i with nmask := true, nudgepc := 0x20000 }

theorem wit_HandlerInstructionResults :
    (∀ i ∈ [Instr.svc h0 0, .brk h0 255, .waiti h0, .pause h0 (g 2), .rdv h0, .nudgearm h0 (.reg 1) (.imm 1) (g 6),
      .nudgearm h0 (.reg 1) (.imm 3) (g 4), .nudgearm h0 (.reg 1) (.imm 2) (g 6)], (tst .C).ready i (tst .C)) ∧
    handler.ready (.retf h0) handler ∧ nudged.ready (.nudgeret h0) nudged ∧ (tst .C).str.freeing = false ∧
    -- an `SVC` with a post behind a held store, and one behind none
    ((busy .L 1).ready (.svc { h0 with psem := 3, pamt := 7 } 0) (busy .L 1) ∧ (busy .L 1).str.performed = false ∧
      (tst .L).ready (.svc { h0 with psem := 3, pamt := 7 } 0) (tst .L) ∧ (tst .L).str.performed = true) ∧
    (((tst .C).val h0 .n64 (.imm 1)).setWidth 2).getLsbD 1 = false ∧
    (((tst .C).val h0 .n64 (.imm 3)).setWidth 2).getLsbD 1 = true ∧
    (((tst .C).val h0 .n64 (.imm 2)).setWidth 2).getLsbD 1 = true ∧
    ((tst .C).val h0 .n64 (g 4)).toNat < 2048 ∧ 2048 = ((tst .C).val h0 .n64 (g 6)).toNat ∧
    (∀ r ∈ [g 4, g 6], isOk ((tst .C).inst.sound (([r.use 64] : List Use).filterMap ((tst .C).inst.useSpot .C false)))) :=
  ⟨all_ready (by decide +kernel), (ready_of (by decide +kernel)).1, (ready_of (by decide +kernel)).1, by decide +kernel,
    ⟨(ready_of (by decide +kernel)).1, by decide +kernel, (ready_of (by decide +kernel)).1, by decide +kernel⟩,
    by decide +kernel⟩

theorem wit_SystemInstructionResults :
    (∀ i ∈ [Instr.fence h0 .sys, .fenceX h0 0, .fenceX h0 1, .fenceX h0 31, .tlbinv h0, .tlbinvA h0 (g 3) (g 2),
      .grwr h0 (g 5) (g 3) (g 4), .grq h0 (.reg 1) (g 2), .remapset h0 (g 2) (g 3) (g 2)],
      (tst .V).ready i (tst .V)) ∧
    (∃ l, (tst .V).readable 0x10000 64 = (l, none) ∧ (tst .V).free_ l = true) ∧
    (∃ t, (tst .V).devWrite ((tst .V).self.remapBase.toNat * 4096 + 16 * ((tst .V).val h0 .n64 (g 2)).toNat)
      (toBytes 8 (0x10000 + 0) ++ toBytes 8 0) = .ok t) ∧
    (tst .V).str.performed = true ∧ (tst .V).granHeld (dieOf (tst .V).core) = false ∧
    -- a held store, behind which a `FENCE` stalls, and one of stream scope does not
    (∀ i ∈ [Instr.fence h0 .sys, .fence h0 .stream, .fenceX h0 31], (busy .L 1).ready i (busy .L 1)) ∧
    (busy .L 1).str.performed = false ∧ (busy .L 1).str.cmds = 0 ∧
    ((tst .V).val h0 .n64 (g 5)).toNat + 64 = 0x20000000 ∧
    ((tst .V).val h0 .n64 (g 5)).toNat % 64 = 0 ∧ ((tst .V).val h0 .n64 (g 4)).toNat = 64 ∧
    ((tst .V).val h0 .i64 (g 3)).toNat = 0x10000 ∧ ((tst .V).val h0 .n64 (g 3)).toNat = 0x10000 ∧
    ((tst .V).val h0 .n64 (g 2)).toNat = 0 ∧ (tst .V).self.remapCnt = 1 := by
  have r : ((tst .V).readable 0x10000 64).2 = none := by decide +kernel
  exact ⟨all_ready (by decide +kernel), ⟨_, Prod.ext rfl r, by decide +kernel⟩, ok_of (by decide +kernel),
    by decide +kernel, by decide +kernel, all_ready (by decide +kernel), by decide +kernel⟩

/-- A count of 65,535 in semaphore 31 and of 0 in the others. -/
def counted (st : Stream) : State := tstI st fun i => { i with sem := [(31, 65535)] }

theorem wit_SemaphoreAndTagResults :
    (∀ i ∈ [Instr.semwait h0 31 (g 4), .semwait h0 0 (g 4), .sempost h0 0 (g 2), .sempost h0 0 (g 4),
      .semset h0 (.reg 1) 31 (g 4), .semrd h0 .push 31, .tagset h0 (.reg 1) (g 4), .qdrop h0 .shuttle (.reg 1) (g 4),
      .qdrop h0 .L (.reg 1) (g 4), .qdrop h0 .M (.reg 1) (g 4), .qdrop h0 .V (.reg 1) (g 4),
      .qdrop h0 .S (.reg 1) (g 4)], (counted .C).ready i (counted .C)) ∧
    (∃ e, (counted .C).acquire 0 31 65535 = .ok (some e)) ∧ (counted .C).acquire 0 0 64 = .ok none ∧
    (∀ n : Fin 32, (counted .C).inst.badAt (.sem n) = none) ∧
    ((counted .C).val h0 .n64 (g 4)).toNat ≤ 65535 ∧ (counted .C).str.eq = [] ∧
    dropStream .L = some .L ∧ dropStream .M = some .M ∧ dropStream .V = some .V ∧ dropStream .S = some .S :=
  ⟨all_ready (by decide +kernel), granted_of (by decide +kernel), ok_eq (by decide +kernel), by decide +kernel⟩

/-- Work queues of die 0: 64 an empty ACTIVE one, 2 one full of reservations, 3 one whose first record is
reserved by the job, 4 one with a record, 5 one in ERROR and empty; a descriptor stands at 10040H. -/
def queues (st : Stream) : State :=
  let q : WQ := { state := .active, desc := 6 * 2 ^ 64 }
  let s := tst st
  { (s.setInst { s.inst with streams := s.inst.streams.map fun _ x =>
      { x with g := x.g ++ [(7, 0x10040), (8, 2047), (9, 20), (10, 21)] } }) with
    mem := s.mem ++ [(0x10048, 6)],
    dies := [(0, { wq := [(2, { q with ents := List.replicate 64 (.resv 7 0) }), (3, { q with ents := [.resv 1 0] }),
      (20, { q with ents := [.rec_ 5 false false] }), (21, { q with state := .error }), (64, q)] })] }

theorem wit_WorkQueueResults :
    (∀ i ∈ [Instr.wqrsv h0 (.reg 1) (.imm 2), .wqrsv h0 (.reg 1) (g 4), .wqpush h0 (.reg 1) (.imm 2) (g 3),
      .wqpush h0 (.reg 1) (g 4) (g 3), .wqcmt h0 (.reg 1) (.imm 3) (g 2) (g 3), .wqpop h0 false (.reg 1) (g 9) (g 3),
      .wqpop h0 true (.reg 1) (g 4) (g 3), .wqstat h0 (.reg 1) (g 8), .wqctlCreate h0 (.reg 1) (g 8) (g 7),
      .wqctlRestart h0 (.reg 1) (g 10) (g 7), .wqctlDestroy h0 (.reg 1) (g 10) (g 7),
      .wqctlRead h0 (.reg 1) (g 4) (g 3)], (queues .C).ready i (queues .C)) ∧
    (∀ p ∈ [(Src.imm 2, 2), (.imm 3, 3), (g 9, 20), (g 10, 21), (g 4, 64), (g 8, 2047)],
      (queues .C).queueOpd h0 p.1 = .ok p.2) ∧
    (∃ p, (queues .C).recordAt .read h0 (g 3) = .ok p) ∧ (∃ p, (queues .C).recordAt .read h0 (g 7) = .ok p) ∧
    (∃ p, (queues .C).recordAt .write h0 (g 3) = .ok p ∧
      ((queues .C).free_ p.2 && (queues .C).unheld p.2) = true) ∧
    (∃ r, (queues .C).popQueue 0 20 = some r) ∧
    (∃ q, ((queues .C).wqAt 0 2047).create 2047 (.ofNat 512 (6 * 2 ^ 64)) = some q) ∧
    (∃ q, ((queues .C).wqAt 0 21).restart (.ofNat 512 (6 * 2 ^ 64)) = some q) ∧
    (∃ q, ((queues .C).wqAt 0 21).destroy = some q) ∧
    (((queues .C).wqAt 0 2).full = true ∧ ((queues .C).wqAt 0 64).full = false ∧
      ((queues .C).wqAt 0 64).took.get none 0 = none ∧
      ((queues .C).wqAt 0 64).ents = [] ∧ ((queues .C).wqAt 0 20).dead = [] ∧ ((queues .C).wqAt 0 20).pops = [] ∧
      ((queues .C).wqAt 0 3).ents[0]? = some (.resv (queues .C).inst.uid 0) ∧ (queues .C).str.performed = true) ∧
    -- an empty queue: in ERROR or not, and behind a `WQPOP` that began before
    (∀ nb, (queues .C).ready (.wqpop h0 nb (.reg 1) (g 10) (g 3)) (queues .C) ∧
      (queues .C).ready (.wqpop h0 nb (.reg 1) (g 4) (g 3)) (queues .C)) ∧
    ((queues .C).wqAt 0 21).state = .error ∧ ((queues .C).wqAt 0 21).ents = [] ∧
    ((queues .C).wqAt 0 64).state = .active ∧ (queues .C).popQueue 0 64 = none ∧
    ([(1, 9, Stream.L)] : List (Nat × Nat × Stream)).takeWhile (· != (0, 1, .C)) ≠ [] ∧
    ofBytes ((queues .C).load .C ((List.range 64).map fun k => .hbm (0x10040 + k))) = 6 * 2 ^ 64 :=
  ⟨all_ready (by decide +kernel), all_answer (by decide +kernel), ok_of (by decide +kernel), ok_of (by decide +kernel),
    places_of (by decide +kernel), some_of (by decide +kernel), some_of (by decide +kernel), some_of (by decide +kernel),
    some_of (by decide +kernel), by decide +kernel,
    fun nb => by cases nb <;> exact ⟨(ready_of (by decide +kernel)).1, (ready_of (by decide +kernel)).1⟩,
    by decide +kernel⟩

/-- L of the same job, with a ticket of queue 64 that a stream of the core has had in a cycle of this
nanosecond. -/
def reserved (second : Bool) (st : Stream) : State :=
  let s := queues .L
  s.setWq 0 64 { s.wqAt 0 64 with took := [(0, some ⟨s.mtime, second, st⟩)] }

-- The stream that had it stands before L, is L, or stands after it.
theorem wit_WorkQueueResultsCycles : ∀ second, ∀ st ∈ [Stream.C, .L, .M, .S],
    let s := reserved second st
    (∀ i ∈ [Instr.wqrsv h0 (.reg 1) (g 4), .wqpush h0 (.reg 1) (g 4) (g 3)], s.ready i s) ∧
    s.queueOpd h0 (g 4) = .ok 64 ∧ (∃ p, s.recordAt .read h0 (g 3) = .ok p) ∧ s.str.performed = true ∧
    (s.wqAt 0 64).full = false ∧ (s.wqAt 0 64).state ≠ .free ∧ (s.wqAt 0 64).ringparse = false ∧
    (s.wqAt 0 64).took.get none s.core = some ⟨s.mtime, second, st⟩ ∧
    (streams.idxOf st ≤ streams.idxOf s.stream ↔ st ∈ [Stream.C, .L]) := by
  have k : ∀ second, ∀ st ∈ [Stream.C, .L, .M, .S],
      [Instr.wqrsv h0 (.reg 1) (g 4), .wqpush h0 (.reg 1) (g 4) (g 3)].all (isReady (reserved second st)) = true ∧
      ((reserved second st).queueOpd h0 (g 4)).toOption = some 64 ∧
      isOk ((reserved second st).recordAt .read h0 (g 3)) = true := by decide +kernel
  exact fun second st h => ⟨all_ready (k second st h).1, ok_eq (k second st h).2.1, ok_of (k second st h).2.2,
    by revert second st; decide +kernel⟩

/-- A tbar at offset 0 with the given first eight bytes. -/
def barrier (st : Stream) (l : List Byte) : State :=
  tstI st fun i => { i with store := { i.store with spad := SMap.setList 0 [] 0 l } }

theorem wit_SpawnAndBarrierResults :
    (∀ i ∈ [Instr.spawn h0 (.reg 1) (g 3), .spawn h0 (.reg 1) (g 6), .tbarm h0 true true (.reg 1) (g 1) (g 4) (g 2),
      .tbwait h0 (.reg 1) (g 1) (.imm 1), .tbarrive h0 (g 1) (g 2) (g 2)], (tst .C).ready i (tst .C)) ∧
    (∃ l, (tst .C).at_ .read 0x10000 64 = .ok l) ∧
    (∃ t, ((tst .C).setInst { (tst .C).inst with launch := { root := 2 } }).at_ .read 0x10000 64 = .error t ∧
      t.cause = .pageFault) ∧
    (∃ r, (tst .C).spawn (some 0) = .ok r) ∧ (tst .C).tbAddr 0x4000000000000000 = .ok 0 ∧
    (lrChild (.ofNat 512 (2 ^ 129)) = true ∧ lrChild 0 = false ∧
      ((tst .C).dieAt (tst .C).inst.launch.die).stopped = false ∧
      (tst .C).free_ ((List.range 16).map fun k => .spad (0 + k)) = true ∧
      (tst .C).unheld ((List.range 16).map fun k => .spad (0 + k)) = true ∧ (tst .C).die.stopped = false ∧
      (tst .C).str.performed = true ∧ (∀ st, ((tst .C).inst.streams.get st).eq = []) ∧
      (tst .C).tbGet 0 (tst .C).inst 0 = ⟨0, 0, 0, false, false, false, false, 0⟩ ∧
      ((tst .C).val h0 .n64 (.imm 1)).toNat % 16 ≠ 0) ∧
    (∃ u, (tst .C).tbPut 0 1 0 ⟨0, 64, 0, false, true, true, true, 0⟩ (Tb.settle ⟨0, 64, 0, false, true, true, true, 0⟩)
      = .ok u) ∧
    -- armed and ordered with NEXT 0: an arrival of index 0
    (barrier .C [0x50, 0, 0, 0, 1]).tbGet 0 (barrier .C [0x50, 0, 0, 0, 1]).inst 0 =
      ⟨0, 1, 0, false, true, false, true, 0⟩ :=
  ⟨all_ready (by decide +kernel), ok_of (by decide +kernel),
    error_is (by decide +kernel),
    ok_of (by decide +kernel), ok_eq (by decide +kernel),
    by refine ⟨?_, ?_, ?_, ?_, ?_, ?_, ?_, fun st => by cases st <;> rfl, ?_, ?_⟩ <;> decide +kernel,
    ok_of (by decide +kernel), by decide +kernel⟩

/-- A lane of a register that holds zero. -/
theorem zero_lane {s : State} {n : Fin 32} (hn : (s.vreg n).toNat = 0) (h : Head) (ty : Ty) (i : Nat) :
    s.vlane h ty (.reg n) i = .ok (0, 0) := by
  show Except.ok (lane (s.vreg n) i ty.width, 0) = _
  rw [lane, hn, Nat.zero_div, Nat.zero_mod]

/-- A source whose active lanes can be read. -/
theorem reads_of {s : State} {on : Nat → Bool} {h : Head} {ty : Ty} {a : VSrc}
    (k : (List.range ty.lanes).all (fun i => !on i || isOk (s.vlane h ty a i)) = true) : ∃ x, s.reads on h ty a x := by
  refine ⟨fun i => (s.vlane h ty a i).toOption.getD (0, 0), fun i hi ho => ?_⟩
  have e := List.all_eq_true.1 k i (List.mem_range.2 hi)
  rw [ho] at e
  obtain ⟨x, hx⟩ := ok_of (x := s.vlane h ty a i) (by simpa using e)
  simp only [hx, Except.toOption, Option.getD_some]

/-- Sources whose lanes under a mask can all be read. -/
theorem all_read {s : State} {l : List (Fin 8 × Ty × VSrc)}
    (k : l.all (fun p => (List.range p.2.1.lanes).all fun i => !s.act p.1 p.2.1.width i ||
      isOk (s.vlane h0 p.2.1 p.2.2 i)) = true) :
    ∀ p ∈ l, ∃ x, s.reads (s.act p.1 p.2.1.width) h0 p.2.1 p.2.2 x :=
  fun p hp => reads_of (List.all_eq_true.1 k p hp)

/-- V with a mask of every second lane in `%m1`, lanes in `%v1`, and usable entries 0 of codebook banks 0
(kind 00) and 7 (kind 10). -/
def vec : State := tstI .V fun i =>
  { i with v := [(1, 0x0123456789ABCDEF)], mreg := [(1, 0x5555555555555555)],
           store := { i.store with cb := [(0, ⟨0x80, 0x3C00⟩), (1792, ⟨0x82, 0x3C00⟩)] } }

/-- Each vector instruction of two sources, of one and of three, with integer and with float types. -/
def vecInts (m : Fin 8) (ty : Ty) (a b : VSrc) : List Instr :=
  [.vadd h0 m ty (.reg 1) a b, .vsub h0 m ty (.reg 1) a b, .vmul h0 m ty (.reg 1) a b, .vmulh h0 m ty (.reg 1) a b,
    .vadds h0 m ty (.reg 1) a b, .vsubs h0 m ty (.reg 1) a b, .vmin h0 m ty (.reg 1) a b, .vmax h0 m ty (.reg 1) a b,
    .vand h0 m ty (.reg 1) a b, .vor h0 m ty (.reg 1) a b, .vxor h0 m ty (.reg 1) a b, .vshl h0 m ty (.reg 1) a b,
    .vshr h0 m ty (.reg 1) a b, .vabs h0 m ty (.reg 1) a, .vmov h0 m ty (.reg 1) a, .vmad h0 m ty (.reg 1) a b b]
@[inherit_doc vecInts] def vecFloats (m : Fin 8) (ty : Ty) (a b : VSrc) : List Instr :=
  [.vfadd h0 m ty (.reg 1) a b, .vfsub h0 m ty (.reg 1) a b, .vfmul h0 m ty (.reg 1) a b, .vfdiv h0 m ty (.reg 1) a b,
    .vfmin h0 m ty (.reg 1) a b, .vfmax h0 m ty (.reg 1) a b, .vfsqrt h0 m ty (.reg 1) a, .vfrcp h0 m ty (.reg 1) a,
    .vfexp2 h0 m ty (.reg 1) a, .vfabs h0 m ty (.reg 1) a, .vfneg h0 m ty (.reg 1) a, .vfma h0 m ty (.reg 1) a b b]

theorem wit_VectorIntegerResults :
    (∀ i ∈ vecInts 0 .i64 (v 1) (.age 15) ++ vecInts 1 .i8 (.cb 0 7) (.imm 31) ++ vecInts 7 .n16 (.imm 15) (v 31),
      vec.ready i vec) ∧
    ∀ p ∈ [((0 : Fin 8), Ty.i64, v 1), (0, .i64, .age 15), (1, .i8, .cb 0 7), (1, .i8, .imm 31), (7, .n16, .imm 15),
      (7, .n16, v 31)], ∃ x, vec.reads (vec.act p.1 p.2.1.width) h0 p.2.1 p.2.2 x :=
  ⟨all_ready (by decide +kernel), all_read (by decide +kernel)⟩

theorem wit_VectorFloatResults :
    (∀ i ∈ vecFloats 0 .f32 (v 1) (.age 15) ++ vecFloats 1 .bf16 (.cb 0 7) (v 1), vec.ready i vec) ∧
    ∀ p ∈ [((0 : Fin 8), Ty.f32, v 1), (0, .f32, .age 15), (1, .bf16, .cb 0 7), (1, .bf16, v 1)],
      ∃ x, vec.reads (vec.act p.1 p.2.1.width) h0 p.2.1 p.2.2 x :=
  ⟨all_ready (by decide +kernel), all_read (by decide +kernel)⟩

theorem wit_VectorMoveResults :
    (∀ i ∈ [Instr.vcvt h0 0 .f32 .i8 none 3 (.reg 1) (v 2), .vcvt h0 0 .e5m2 .f32 (some .sat) 0 (.reg 1) (v 2),
      .vcbx h0 0 .f32 0 0 3 (.reg 1) (v 2), .vcbx h0 0 .i8 7 2 0 (.reg 1) (v 2), .vpack h0 1 .n8 (.reg 1) (v 2) (v 2),
      .vunpack h0 1 .i8 true (.reg 1) (v 2), .vldexp h0 1 .f16 (.reg 1) (v 2) (v 2), .vbcast h0 1 .n64 (.reg 1) (g 1),
      .vsel h0 1 .i4 (.reg 1) (v 2) (v 2), .vshuf h0 0 .i8 (.reg 1) (v 2) (v 2) (v 2),
      .vslide h0 0 .i64 (.reg 1) (v 2) (v 2) (g 6), .vzip h0 0 .f16 true (.reg 1) (v 2) (v 2),
      .vunzip h0 0 .f16 false (.reg 1) (v 2) (v 2)], vec.ready i vec) ∧
    (∀ ty i, vec.vlane h0 ty (v 2) i = .ok (0, 0)) ∧ (∀ m ty k i, vec.tableLane h0 m ty k (v 2) i = .ok (0, 0)) ∧
    Ty.convertTy .f32 .i8 vec.str.rnd (vec.policy none) 0 = some (0, 0) ∧
    Ty.convertTy .e5m2 .f32 vec.str.rnd (vec.policy (some .sat)) 0 = some (0, 0) ∧
    (vec.inst.entryCb 0 0).ok 0 = true ∧ (vec.inst.entryCb 7 0).ok 2 = true := by
  have z (ty : Ty) (i : Nat) : vec.vlane h0 ty (v 2) i = .ok (0, 0) := zero_lane (by decide +kernel) h0 ty i
  exact ⟨all_ready (by decide +kernel), z, fun m ty k i => z ty i, by decide +kernel⟩

theorem wit_VectorReductionResults :
    (∀ i ∈ [Instr.vredsum h0 1 .i8 (.reg 1) (v 1) (v 2), .vredmax h0 1 .i8 (.reg 1) (v 1) (v 2),
      .vredmin h0 0 .n64 (.reg 1) (v 1) (v 2), .vscan h0 1 .n16 (.reg 1) (v 1) (v 2),
      .vredsum h0 0 .f32 (.reg 1) (v 1) (v 2), .vredmax h0 1 .f16 (.reg 1) (v 1) (v 2),
      .vredmin h0 1 .bf16 (.reg 1) (v 1) (v 2), .vscan h0 1 .f32 (.reg 1) (v 1) (v 2)], vec.ready i vec) ∧
    (∀ m ty, ∃ x, vec.reads (vec.act m ty.width) h0 ty (v 1) x) ∧ (∀ ty, vec.vlane h0 ty (v 2) 0 = .ok (0, 0)) ∧
    Ty.i8.sfn = true ∧ Ty.n64.sfn = true ∧ Ty.n16.sfn = true ∧ Ty.f32.vfl = true ∧ Ty.f16.vfl = true ∧
    Ty.bf16.vfl = true :=
  ⟨all_ready (by decide +kernel), fun _ ty => ⟨fun i => (lane (vec.vreg 1) i ty.width, 0), fun _ _ _ => rfl⟩,
    fun ty => zero_lane (by decide +kernel) h0 ty 0, by decide +kernel⟩

theorem wit_VectorMaskResults :
    (∀ i ∈ [Instr.vcmp h0 1 .le .i8 (.reg 1) (v 1) (v 2), .vcmp h0 0 .ne .f16 .push (v 1) (v 2),
      .vmskAnd h0 (.reg 0) (.reg 1) (.age 15), .vmskOr h0 .push (.reg 1) (.reg 1), .vmskXor h0 .push (.reg 1) (.reg 1),
      .vmskAndn h0 .push (.reg 1) (.reg 1), .vmskNot h0 (.reg 7) (.reg 1), .vtopk h0 1 .i8 (.reg 1) (v 1) (.imm 1),
      .vmpop h0 .i8 (.reg 1) (.reg 1), .viota h0 1 .i8 (.reg 1) (.reg 1)], vec.ready i vec) ∧
    (∀ m ty, ∃ x, vec.reads (vec.act m ty.width) h0 ty (v 1) x) ∧ Ty.i8.isInt = true ∧ Ty.f16.isInt = false :=
  ⟨all_ready (by decide +kernel), fun _ ty => ⟨fun i => (lane (vec.vreg 1) i ty.width, 0), fun _ _ _ => rfl⟩,
    by decide +kernel⟩

theorem wit_VectorMemoryResults :
    (∀ i ∈ [Instr.vld h0 0 .i4 (.reg 1) (g 1) (g 2), .vst h0 0 .i4 (g 1) (g 2) (v 1),
      .vlds h0 0 .i32 (.reg 1) (g 1) (g 4), .vsts h0 0 .i32 (g 1) (g 4) (v 1), .vgath h0 0 .i64 7 (.reg 1) (g 1) (v 2),
      .vscat h0 0 .i64 7 (g 1) (v 2) (v 1)], vec.ready i vec) ∧
    (∀ acc ∈ [Acc.read, .write],
      (∀ t, t < 512 → vec.at_ acc (0x4000000000000000 + t / 2) 1 = .ok [.spad (t / 2)]) ∧
      (∀ t, t < 64 → vec.at_ acc (0x4000000000000000 + 64 * t) 4 = .ok ((List.range 4).map fun k => .spad (64 * t + k))) ∧
      vec.at_ acc 0x4000000000000000 8 = .ok ((List.range 8).map .spad)) ∧
    (∀ ty i, vec.vlane h0 ty (v 2) i = .ok (0, 0)) ∧ vec.stream = .V ∧ vec.str.stores < 16 ∧
    vec.addr h0 (g 1) (g 2) = 0x4000000000000000 ∧ (vec.val h0 .i64 (g 4)).toInt = 64 := by
  have k1 : ∀ acc ∈ [Acc.read, .write], ∀ t, t < 512 →
      (vec.at_ acc (0x4000000000000000 + t / 2) 1).toOption = some [.spad (t / 2)] := by decide +kernel
  have k2 : ∀ acc ∈ [Acc.read, .write], ∀ t, t < 64 → (vec.at_ acc (0x4000000000000000 + 64 * t) 4).toOption =
      some ((List.range 4).map fun k => .spad (64 * t + k)) := by decide +kernel
  have k3 : ∀ acc ∈ [Acc.read, .write], (vec.at_ acc 0x4000000000000000 8).toOption =
      some ((List.range 8).map .spad) := by decide +kernel
  exact ⟨all_ready (by decide +kernel), fun acc ha => ⟨fun t ht => ok_eq (k1 acc ha t ht),
    fun t ht => ok_eq (k2 acc ha t ht), ok_eq (k3 acc ha)⟩, zero_lane (by decide +kernel) h0, by decide +kernel⟩

theorem wit_SheafMemoryResults :
    (∀ i ∈ [Instr.vldsh h0 0 .f32 false 6 none (.reg 1) (g 1), .vstsh h0 0 .f32 1 0 false 6 0 false (g 1) (v 2),
      .vstsh h0 1 .f16 15 0 true 0 0 false (g 1) (v 1)], vec.ready i vec) ∧
    (∀ i, i < 64 →
      vec.at_ .read ((0x4000000000000000 + 2 * (6 + i / 32)) % 2 ^ 64) 2 =
        .ok [.spad (2 * (6 + i / 32)), .spad (2 * (6 + i / 32) + 1)] ∧
      vec.at_ .read ((0x4000000000000000 + codeAt false (6 + i / 32) (i % 32)) % 2 ^ 64) 1 =
        .ok [.spad (codeAt false (6 + i / 32) (i % 32))] ∧
      ofBytes (vec.load .V [.spad (2 * (6 + i / 32)), .spad (2 * (6 + i / 32) + 1)]) = 0 ∧
      ofBytes (vec.load .V [.spad (codeAt false (6 + i / 32) (i % 32))]) = 0) ∧
    Hdr.of 0 = ⟨0, 0, 0, true⟩ ∧ elemOf vec.inst.cbAt false 0 0 (codeOf false 0 0) = .val (Fl.ofInt 0) ∧
    Ty.convert .f32 vec.str.rnd (vec.policy none) false ((Fl.ofInt 0).scale (0 - 127)) = some (0, 0) ∧
    (∀ k, k < 2 → ∃ o, vec.sheafOut h0 0 .f32 ⟨false, 1, 0, 0, false⟩ (v 2) 0x4000000000000000 (6 + k) (32 * k) = .ok o) ∧
    vec.stream = .V ∧ vec.str.stores < 16 ∧ (vec.val h0 .i64 (g 1)).toNat % 16 = 0 := by
  have k : ∀ i, i < 64 →
      (vec.at_ .read ((0x4000000000000000 + 2 * (6 + i / 32)) % 2 ^ 64) 2).toOption =
        some [.spad (2 * (6 + i / 32)), .spad (2 * (6 + i / 32) + 1)] ∧
      (vec.at_ .read ((0x4000000000000000 + codeAt false (6 + i / 32) (i % 32)) % 2 ^ 64) 1).toOption =
        some [.spad (codeAt false (6 + i / 32) (i % 32))] ∧
      ofBytes (vec.load .V [.spad (2 * (6 + i / 32)), .spad (2 * (6 + i / 32) + 1)]) = 0 ∧
      ofBytes (vec.load .V [.spad (codeAt false (6 + i / 32) (i % 32))]) = 0 := by decide +kernel
  have o : ∀ k, k < 2 → isOk (vec.sheafOut h0 0 .f32 ⟨false, 1, 0, 0, false⟩ (v 2) 0x4000000000000000 (6 + k) (32 * k)) =
      true := by decide +kernel
  exact ⟨all_ready (by decide +kernel), fun i hi => ⟨ok_eq (k i hi).1, ok_eq (k i hi).2.1, (k i hi).2.2⟩,
    by decide +kernel, by decide +kernel, by decide +kernel, fun k hk => ok_of (o k hk), by decide +kernel⟩

/-- Furrow images: a copy of two 4-byte elements between runs of scratchpad, one every patch of which is
permitted, and one of a `WEAVE` over scratchpad and tile 0. -/
def copyFur : Fur := .ofNat 1024 (2 + (2 ^ 16 + 2 ^ 32 + 2 ^ 48 + 2 ^ 64 + 2 ^ 80) + 18 * 2 ^ 96 + 18 * 2 ^ 104 +
  4 * 2 ^ 192 + 0x1000 * 2 ^ 384 + 4 * 2 ^ 448)
@[inherit_doc copyFur] def openFur : Fur := .ofNat 1024 (2 * 2 ^ 96 + 7 * 2 ^ 896 + 0x80 * 2 ^ 992 + 0xFFF * 2 ^ 1000)
@[inherit_doc copyFur] def weaveFur : Fur := .ofNat 1024 ((1 + 2 ^ 16 + 2 ^ 32 + 2 ^ 48 + 2 ^ 64 + 2 ^ 80) + 2 * 2 ^ 96 +
  2 * 2 ^ 104 + 3 * 2 ^ 112)

/-- The job with these furrows in slots 61, 62 and 63, a grant of draught, and two registers of values at
the ends of fields. -/
def fur (st : Stream) (f : Inst → Inst) : State :=
  let s := tst st
  s.setCore 0 (({ s.self with grant := true } : Core).setAct (f { s.inst with
    hdr := s.inst.hdr ||| 1 <<< 348, store := { s.inst.store with fur := [(61, copyFur), (62, openFur), (63, weaveFur)] },
    streams := s.inst.streams.map fun _ x => { x with g := x.g ++ [(7, 0xFFFF), (8, 0x10000), (9, 0x7FFFFFFF),
      (10, 0x80000000), (11, 255), (12, 256), (13, 4095), (14, 4096), (15, 0x17FFFF), (16, 0x180000)] } }))

theorem wit_FurrowResults :
    (∀ i ∈ [Instr.fld h0 0 (g 1) (g 2), .fst h0 (g 1) (g 2) 63, .fpatchMem h0 (.bound 0) 62 (g 1) (g 2)] ++
      [g 2, g 7, g 8].map (.fset h0 (.bound 5) 0) ++ [.fset h0 (.base 2) 0 (g 1)] ++
      [g 9, g 10].map (.fset h0 (.stride 2 5) 0) ++ [Src.imm 7, .imm 8].map (.fset h0 (.target 2) 0) ++
      [g 11, g 12].map (.fset h0 (.attr 2) 0) ++ [g 11, g 12].map (.fset h0 .oper 0) ++
      [g 7, g 8].map (.fset h0 (.bmax 5) 0) ++ [g 11, g 12].map (.fset h0 .wmask 0) ++
      [g 13, g 14].map (.fset h0 .patchen 0) ++ [Src.imm 7, .imm 8].map (.fpatch h0 (.bound 0) 62) ++
      [g 15, g 16].map (.fpatch h0 (.base 0) 62) ++ [Src.imm 7, .imm 6, .imm 8].map (.fpatch h0 (.target 0) 62),
      (fur .C id).ready i (fur .C id)) ∧
    (fur .L id).ready (.fst h0 (g 1) (g 2) 63) (fur .L id) ∧
    (∃ l, (fur .C id).at_ .read 0x4000000000000000 128 = .ok l ∧ (fur .C id).free_ l = true) ∧
    (∃ l, (fur .C id).at_ .write 0x4000000000000000 128 = .ok l ∧ (fur .C id).free_ l = true) ∧
    (∃ l, (fur .L id).at_ .write 0x4000000000000000 128 = .ok l ∧ (fur .L id).free_ l = true) ∧
    (∃ l, (fur .C id).at_ .read 0x4000000000000000 8 = .ok l ∧ (fur .C id).free_ l = true) ∧ place 0x4000000000000000 = .local_ 0 ∧
    (fur .L id).str.stores < 16 ∧ (fur .C id).addr h0 (g 1) (g 2) = 0x4000000000000000 ∧
    -- what slot 62 permits: bound 0 up to 7, a scratchpad base, target 7
    openFur.getLsbD 1000 = true ∧ fld openFur 896 16 = 7 ∧ openFur.getLsbD 1006 = true ∧
    baseOk (fKind openFur 0) 0x17FFFF = true ∧ baseOk (fKind openFur 0) 0x180000 = false ∧
    openFur.getLsbD 1009 = true ∧ openFur.getLsbD 999 = true ∧ openFur.getLsbD 998 = false :=
  ⟨all_ready (by decide +kernel), (ready_of (by decide +kernel)).1, places_of (by decide +kernel),
    places_of (by decide +kernel), places_of (by decide +kernel), places_of (by decide +kernel), by decide +kernel⟩

/-- A literal that names export 0 of module 1. -/
def far : Head := { h0 with lit := .l64 0x4000000000010000 }

/-- Module 1 has an export, and no link is up. -/
def parted : State := { tst .S with peers := [(1, { exports := [(0, some ⟨true, true, 0, 4096, none⟩)] })] }

theorem wit_WindowAndCopyStatusResults :
    (∀ i ∈ [Instr.winset h0 0 (g 2) (g 2) (g 2), .winset h0 7 (g 2) (g 2) (g 4), .winset h0 7 (g 1) (g 2) (g 4),
      .winset far 7 .lit (g 2) (g 4), .winq h0 (.reg 1) 7 true, .winq h0 .push 0 false, .cpyq h0 (.reg 1) (.imm 1)],
      (tst .S).ready i (tst .S)) ∧
    parted.ready (.winset far 7 .lit (g 2) (g 4)) parted ∧
    (∃ r, (tst .S).bind_ 0 0 64 = some r) ∧
    -- a target of this module, none, and one that cannot be reached
    exportModule 0 = none ∧ exportModule ((tst .S).val h0 .n64 (g 1)) = some 0 ∧ (tst .S).reached 0 = true ∧
    exportModule (parted.val far .n64 .lit) = some 1 ∧ parted.reached 1 = false ∧ (parted.val h0 .n64 (g 4)).toNat = 64 ∧
    (tst .S).reached 1 = true ∧ (tst .S).bind_ 0x4000000000010000 0 64 = none ∧
    ((tst .S).val h0 .n64 (g 2)).toNat = 0 ∧ ((tst .S).val h0 .n64 (g 4)).toNat = 64 ∧
    (tst .S).bind_ 0x4000000000000000 0 64 = none :=
  ⟨all_ready (by decide +kernel), (ready_of (by decide +kernel)).1, some_of (by decide +kernel), by decide +kernel⟩

/-- A command of an `FGO` in L. -/
def cmd (n : Nat) (f : Fur) : Cmd :=
  { id := n, st := .L, instr := .fgo h0 61, head := h0, op := .fgo .plain 0, vals := [], tag := 0, snap := f, wins := [],
    cbpol := false, shpol := false, started := false, written := [], prog := {}, joined := [], after := 0 }

/-- L with `n` commands in its engine queue, `k` in the shuttle queue and `t` in the time-sorted buffer. -/
def queued (n k t : Nat) : State := fur .L fun i =>
  let l (n : Nat) := (List.range n).map fun k => cmd k 0
  { i with shq := l k, timed := l t }.modStr .L fun x => { x with eq := (l n).map .cmd }

theorem wit_CopyCommandResults :
    (∀ s ∈ [queued 15 63 31, queued 16 64 32], ∀ i ∈ [Instr.fgo h0 61, .fgoUnf h0 61 (g 2), .fgoDec h0 61 (.imm 1),
      .cpy h0 none 61 (g 1), .cpyUnf h0 (some 2) 61 (g 2) (g 2), .cpyDec h0 (some 1) 61 (g 2) (g 11),
      .cpyRed h0 (some 1) 61 (g 1), .cpyOred h0 (some 2) 61 (g 1) (g 2)], s.readyCmd i s) ∧
    (∀ s ∈ [queued 15 63 31, queued 16 64 32],
      (∀ st, (st = some Stream.L ∨ st = none) → ∀ m ∈ [CopyMode.plain, .unfold, .decode],
        s.inst.furOk st m (s.inst.store.fur.get 0 61) 61 = .ok ()) ∧
      (∀ m ∈ [CopyMode.reduce, .ordered], s.inst.furOk none m (s.inst.store.fur.get 0 61) 61 = .ok ()) ∧
      orderedOk .ordered copyFur (s.inst.resolve copyFur) 0x4000000000000000 61 = .ok () ∧
      (∀ m ∈ [CopyMode.plain, .unfold, .decode, .reduce], orderedOk m copyFur (s.inst.resolve copyFur) 0 61 = .ok ()) ∧
      s.tbarOk (s.inst.resolve copyFur) 0 = .ok () ∧ s.tbarOk (s.inst.resolve copyFur) 0x4000000000000000 = .ok ()) ∧
    paramOk .unfold 0 = .ok () ∧ paramOk .decode 1 = .ok () ∧ paramOk .decode 255 = .ok () ∧
    (queued 15 63 31).str.cmds = 15 ∧ (queued 16 64 32).str.cmds = 16 ∧ (queued 15 63 31).inst.shq.length = 63 ∧
    (queued 16 64 32).inst.shq.length = 64 ∧ (queued 15 63 31).inst.timed.length = 31 ∧
    (queued 16 64 32).inst.timed.length = 32 ∧
    (queued 15 63 31).mtime.toNat < ((queued 15 63 31).inst.g .L 1).toNat ∧
    ¬(queued 15 63 31).mtime.toNat < ((queued 15 63 31).inst.g .L 2).toNat := by
  have k (s : State) (h : s = queued 15 63 31 ∨ s = queued 16 64 32) :
      (([some Stream.L, none].all fun st => [CopyMode.plain, .unfold, .decode].all fun m =>
        isOk (s.inst.furOk st m (s.inst.store.fur.get 0 61) 61)) &&
      ([CopyMode.reduce, .ordered].all fun m => isOk (s.inst.furOk none m (s.inst.store.fur.get 0 61) 61)) &&
      isOk (orderedOk .ordered copyFur (s.inst.resolve copyFur) 0x4000000000000000 61) &&
      ([CopyMode.plain, .unfold, .decode, .reduce].all fun m =>
        isOk (orderedOk m copyFur (s.inst.resolve copyFur) 0 61)) &&
      isOk (s.tbarOk (s.inst.resolve copyFur) 0) && isOk (s.tbarOk (s.inst.resolve copyFur) 0x4000000000000000)) = true := by
    rcases h with rfl | rfl <;> decide +kernel
  have u {x : T Unit} (h : isOk x = true) : x = .ok () := let ⟨_, e⟩ := ok_of h; e
  refine ⟨?_, fun s hs => ?_, u (by decide +kernel), u (by decide +kernel), u (by decide +kernel), by decide +kernel⟩
  · intro s hs
    simp only [List.mem_cons, List.not_mem_nil, or_false] at hs
    rcases hs with rfl | rfl <;> exact all_readyCmd (by decide +kernel)
  · simp only [List.mem_cons, List.not_mem_nil, or_false] at hs
    have e := k s hs
    simp only [Bool.and_eq_true, List.all_eq_true] at e
    obtain ⟨⟨⟨⟨⟨e1, e2⟩, e3⟩, e4⟩, e5⟩, e6⟩ := e
    refine ⟨fun st hst m hm => u (e1 st ?_ m hm), fun m hm => u (e2 m hm), u e3, fun m hm => u (e4 m hm), u e5, u e6⟩
    rcases hst with rfl | rfl <;> simp

/-- M with `n` commands in the Loom's queue. -/
def looming (n : Nat) : State := fur .M fun i =>
  i.modStr .M fun x => { x with eq := (List.range n).map fun k => .cmd (cmd k 0) }

theorem wit_LoomInstructionResults :
    (∀ i ∈ [Instr.weave h0 false false .f16f16 63 (g 2) false false, .scacc h0 (g 2) (g 2), .lmodeWrap h0, .lmodeSat h0,
      .lsync h0, .accclr h0 (g 2) (g 4), .accld h0 (g 2) (g 1) (g 2), .accst h0 (g 2) (g 1) (g 2),
      .accaddRow h0 true (g 2) (g 1) (g 2), .accaddCol h0 false (g 2) (g 1) (g 2),
      .drain h0 .sh4 .sat true (g 1) (g 2) (g 1), .drain h0 .i8 .nan false (g 1) (g 2) (g 1),
      .mdcopy h0 (g 2) (g 1) (g 2), .cbld h0 7 (g 1) (g 2), .cbq h0 (.reg 1) 7, .reedld h0 3 (g 1) (g 2),
      .reedselOn h0 3, .reedselOff h0], (looming 31).readyCmd i (looming 31)) ∧
    (looming 31).weaveOk ((looming 31).inst.store.fur.get 0 63) 63 false false 0 = .ok () ∧ (looming 31).str.cmds = 31 ∧
    (∀ i ∈ [Instr.accld h0 (g 2) (g 1) (g 2), .accst h0 (g 2) (g 1) (g 2)], (tst .L).ready i (tst .L)) ∧
    (tst .L).stream ≠ .M ∧ (looming 31).stream = .M ∧
    (∃ l, (tst .L).imageOf .read 0 0x4000000000000000 = .ok l ∧ (tst .L).tileFree 0 l [] = true) ∧
    (∃ l, (tst .L).imageOf .write 0 0x4000000000000000 = .ok l ∧ (tst .L).tileFree 0 l l = true) ∧
    (tst .L).inst.tileSound 0 = .ok () := by
  have w : isOk ((looming 31).weaveOk ((looming 31).inst.store.fur.get 0 63) 63 false false 0) = true := by decide +kernel
  have im : ∀ acc ∈ [Acc.read, .write], isOk ((tst .L).imageOf acc 0 0x4000000000000000) = true := by decide +kernel
  have e : (tst .L).str.eq = [] := by decide +kernel
  have t (l k : List Loc) : (tst .L).tileFree 0 l k = true := by
    have h : (tst .L).inst.tileLocked 0 = false := by decide +kernel
    simp [State.tileFree, State.unheld, State.free_, e, h]
  have r (acc : Acc) (h : acc ∈ [Acc.read, .write]) := ok_of (im acc h)
  have v : isOk ((tst .L).inst.tileSound 0) = true := by decide +kernel
  exact ⟨all_readyCmd (by decide +kernel), (let ⟨_, h⟩ := ok_of w; h), by decide +kernel, all_ready (by decide +kernel),
    by decide +kernel, by decide +kernel, (let ⟨l, h⟩ := r .read (by simp); ⟨l, h, t l []⟩),
    (let ⟨l, h⟩ := r .write (by simp); ⟨l, h, t l l⟩), (let ⟨_, h⟩ := ok_of v; h)⟩

/-- `LDL` of a scratchpad address. -/
def ldl0 : Instr := .ldl h0 true .b64 (.reg 1) (g 1) (g 2)

/-- The hypotheses of an atomic's turn at the lock of offset 0, behind a waiter for the lock of offset 8. -/
def lockTurn (i : Instr) : Bool :=
  let w : Instr := .ldl h0 true .b64 (.reg 1) (g 1) (.imm 8)
  let s := tstI .C fun i0 => { i0 with ldlq := [(.S, w), (.L, i)] }
  let e := s.on 0 .L
  let f := e.setInst { e.inst with ldlq := ([(Stream.S, w)] ++ (Stream.L, i) :: []).filter fun y => y.1 != Stream.L }
  let ad := (e.val h0 .i64 (g 1)).toNat
  e.inst.ldlq == [(.S, w)] ++ (.L, i) :: [] && e.lockFree .L (lockOf (ad % 2 ^ 21)) [(.S, w)] &&
    place ad == .local_ 0 && e.str.performed && (f.scalarAt .write ad 8).toOption.any fun l =>
      isOk (f.inst.soundAt localBase l) && f.unheld l && f.free_ l

theorem wit_StreamEventResults :
    -- a `PAUSE` whose end has come
    (let s := tstI .C fun i => i.modStr .L fun x => { x with pause := some (0, h0) }
     (s.on 0 .L).str.pause = some (0, h0) ∧ 0 ≤ 2 * s.mtime.toNat ∧ (s.on 0 .L).inst.phase.live = true) ∧
    -- a waiter whose amount is the count
    (let s := tstI .C fun i => { i with waits := [(.instr .L, 3, 5)], sem := [(3, 5)] }
     (s.on 0 .C).inst.waits.find? (fun y => y.2.1 == 3) = some (.instr .L, 3, 5) ∧ 5 ≤ (s.on 0 .C).inst.semOf 3 ∧
       (s.on 0 .C).inst.phase.live = true ∧ isOk ((s.on 0 .C).inst.sound [.sem 3]) = true) ∧
    -- the same for the command at the head of the Loom's queue
    (let s := tstI .C fun i => { i with waits := [(.queue .M, 3, 5)], sem := [(3, 5)] }.modStr .M fun x =>
       { x with eq := [.cmd (cmd 9 copyFur)] }
     (s.on 0 .C).inst.waits.find? (fun y => y.2.1 == 3) = some (.queue .M, 3, 5) ∧
       firstCmd ((s.on 0 .C).inst.streams.get .M).eq = some (cmd 9 copyFur) ∧
       (s.on 0 .C).overtaken (cmd 9 copyFur) = false ∧ isOk ((s.on 0 .C).inst.sound [.sem 3]) = true) ∧
    -- a `FENCE.X` of C whose marker stands at the head of L's queue
    (let s := tstI .C fun i =>
       (i.modStr .C fun x => { x with join := some h0 }).modStr .L fun x => { x with eq := [.marker .C, .marker .S] }
     let e := s.on 0 .C
     let e1 := e.setInst (e.inst.dropMarkers .C)
     e.str.join = some h0 ∧ e.inst.phase.live = true ∧
       (∀ t ∈ [Stream.L, .M, .V, .S], EqItem.marker .C ∈ (e.inst.streams.get t).eq →
         (e.inst.streams.get t).eq.head? = some (.marker .C)) ∧
       (∀ c ∈ e.inst.shq ++ e.inst.copies, c.id ∉ e.str.joinShq) ∧
       ([Stream.L, .M, .V, .S].foldl State.settle
         (e1.setStr { e1.str with join := none, joinShq := [] })).inst.phase.live = true) ∧
    -- the second of two held writes
    (let e := (busy .L 2).on 0 .L
     ∃ r, performAt 1 e.str.eq [] true = some r ∧ isOk (e.inst.sound [.held .L (e.str.eqDone + r.entry)]) = true) ∧
    -- an `LDL` whose turn has come
    (let s := tstI .C fun i => { i with ldlq := [(.L, ldl0)] }
     let e := s.on 0 .L
     let f := e.setInst { e.inst with ldlq := ([] ++ (Stream.L, ldl0) :: []).filter fun y => y.1 != Stream.L }
     e.inst.ldlq = [] ++ (.L, ldl0) :: [] ∧ e.lockFree .L (lockOf (e.addr h0 (g 1) (g 2) % 2 ^ 21)) [] = true ∧
       f.str.unlocking = false ∧ f.addr h0 (g 1) (g 2) % 8 = 0 ∧ place (f.addr h0 (g 1) (g 2)) = .local_ 0 ∧
       ∃ l, f.at_ .read (f.addr h0 (g 1) (g 2)) 8 = .ok l ∧ f.free_ l = true) ∧
    -- an atomic whose turn has come, behind an `LDL` of another stream that waits for another lock
    (∀ i ∈ amos (g 1), lockTurn i = true) :=
  ⟨by decide +kernel, by decide +kernel, by decide +kernel, by decide +kernel, any_of (by decide +kernel),
    ⟨by decide +kernel, by decide +kernel, by decide +kernel, by decide +kernel, by decide +kernel,
      places_of (by decide +kernel)⟩, by decide +kernel⟩

/-- C with a nudge due, waiting in a `WAITI` or not. -/
def nudging (w : Option Head) : State :=
  tstI .C fun i => { i with nudgevec := 0x20000, arm := 3, tbp := true, qp := true, waiti := w }

theorem wit_NudgeDeliveryResult : ∀ w ∈ [none, some h0, some { h0 with psem := 3, pamt := 7 }],
    ∀ p ∈ [none, some (5, { h0 with psem := 3, pamt := 7 })],
    let i := (((nudging w).setStr { (nudging w).str with pause := p }).on 0 .C).inst
    i.phase = .running ∧ i.streams.c.active = true ∧ i.streams.c.rdv = false ∧ i.inhnd = false ∧ i.nmask = false ∧
      i.nudgevec ≠ 0 ∧ ((i.tbp && i.arm.getLsbD 0) || (i.qp && i.arm.getLsbD 1)) = true ∧ i.streams.c.eq = [] ∧
      i.waiti = w ∧ i.streams.c.pause = p ∧ i.streams.c.got = [] ∧
      (∀ h ∈ w.toList ++ p.toList.map (·.2), i.semOf h.psem + h.pamt < 65536 ∧ isOk (i.sound [.sem h.psem]) = true) ∧
      ∀ st ∈ [Stream.L, .M, .V, .S], (i.streams.get st).eq = [] := by decide +kernel

/-- A command started, of an operation, with points moved. -/
def started (c : Cmd) (op : CmdOp) (pt : Nat) : Cmd := { c with op := op, started := true, prog := { pt := pt } }

/-- A copy of L in an execution slot, ordered at index 0 of the tbar at offset 0, or without a tbar. -/
def copying (ord : Bool) (pt : Nat) : Cmd :=
  started (cmd 9 copyFur) (if ord then .cpy .ordered 0x4000000000000000 0 none else .cpy .plain 0 0 none) pt

/-- A command that waits for the amount 7 of semaphore 3. -/
def waiting : Cmd := { cmd 9 copyFur with head := { h0 with wsem := 3, wamt := 7 } }

/-- The job with a count of 7 in semaphore 3 and an armed ordered tbar at offset 0. -/
def works (f : Inst → Inst) : State :=
  tstI .C fun i => f { i with sem := [(3, 7)], store := { i.store with spad := SMap.setList 0 [] 0 [0x50, 0, 0, 0, 1] } }

theorem wit_CommandEventResults :
    (∀ c ∈ [cmd 9 copyFur, waiting], ∀ st ∈ [Stream.L, .M],
      let s := works fun i => i.modStr st fun x => { x with eq := [.cmd c] }
      let e := s.on 0 st
      e.inst.phase.live = true ∧ e.inst.inhnd = false ∧ e.str.eq = [.cmd c] ∧ c.started = false ∧ e.inst.waits = [] ∧
        c.head.wamt.val ≤ e.inst.semOf c.head.wsem ∧ isOk (e.inst.sound [.cmd c.id, .sem c.head.wsem]) = true ∧
        e.inst.loomHeld = false ∧ e.overtaken c = false) ∧
    place 0x4000000000000000 = .local_ 0 ∧
    (let i := (works fun i => { i with shq := [waiting], copies := (List.range 15).map fun k => cmd k 0 }).inst
     i.phase.live = true ∧ i.shq = [waiting] ∧ i.copies.length < 16 ∧ i.waits = [] ∧
       isOk (i.sound [.cmd 9, .sem 3]) = true) ∧
    (let late := { cmd 1 0 with op := .cpy .plain 0 0 (some 5) }
     let now := { cmd 2 0 with op := .cpy .plain 0 0 (some 0) }
     let s := works fun i => { i with timed := [late, now, late], shq := (List.range 63).map fun k => cmd k 0 }
     s.inst.timed = [late] ++ now :: [late] ∧ (∀ y ∈ [late], now.time < y.time) ∧ now.time ≤ s.mtime.toNat ∧
       s.inst.shq.length < 64) ∧
    (let c := started (cmd 9 copyFur) (.fgo .plain 0) 2
     let e := (works fun i => i.modStr .L fun x => { x with eq := [.cmd c] }).on 0 .L
     e.str.eq = [.cmd c] ∧ c.started = true ∧ c.op.copy.isSome = true ∧ fPoints c.snap ≤ c.prog.pt) ∧
    (let c := copying true 0
     let s := works fun i => { i with copies := [c] }
     let es := (s.on 0 .C).on 0 c.st
     let tb := es.tbGet 0 es.inst 0
     s.inst.copies.find? (·.id == 9) = some c ∧ c.index = some 0 ∧ es.tbarOf c = some (0, 1, 0) ∧
       c.prog.applied = false ∧ es.instOf 0 1 = some es.inst ∧ tb.armed = true ∧ tb.ord = true ∧ tb.next = 0 ∧
       isOk (es.inst.soundAt localBase ((List.range 16).map fun z => .spad (0 + z))) = true) ∧
    (let c := copying false 2
     let s := works fun i => { i with copies := [c] }
     s.inst.copies.find? (·.id == 9) = some c ∧ fPoints c.snap ≤ c.prog.pt ∧ c.index = none ∧ c.head.pamt = 0 ∧
       ((s.on 0 .L).follows c = false ∧ (s.on 0 .L).tbarOf c = none) ∧ ∃ u, (s.on 0 .L).countCopy c = .ok u) ∧
    -- one that has had its turn and counts on its tbar
    (let c := { copying true 2 with prog := { pt := 2, applied := true } }
     let s := works fun i => { i with copies := [c] }
     (s.inst.copies.find? (·.id == 9) = some c ∧ c.prog.applied = true ∧ (s.on 0 .L).follows c = false ∧
       (s.on 0 .L).tbarOf c = some (0, 1, 0)) ∧ ∃ u, (s.on 0 .L).countCopy c = .ok u) ∧
    (let c := { copying false 2 with head := { h0 with psem := 3, pamt := 7 } }
     let s := works fun i => { i with copies := [c] }
     (∃ u, (s.on 0 .L).countCopy c = .ok u) ∧ ∃ j, s.inst.post 3 7 = .ok j) :=
  ⟨by decide +kernel, by decide +kernel, by decide +kernel, by decide +kernel, by decide +kernel, by decide +kernel,
    ⟨by decide +kernel, by decide +kernel, by decide +kernel, by decide +kernel, by decide +kernel,
      ok_of (by decide +kernel)⟩, ⟨by decide +kernel, ok_of (by decide +kernel)⟩,
    ok_of (by decide +kernel), ok_of (by decide +kernel)⟩

/-- L with a started `FGO` of a mode at the head of its engine queue, or a copy of that mode in an execution
slot; a block of zeros for a decoding one stands at offset 0. -/
def moving (mode : CopyMode) (par : Word) (fgo : Bool) (f : Prog) : State :=
  let c := { cmd 9 copyFur with started := true, prog := f, op := if fgo then .fgo mode par else .cpy mode 0 par none }
  tstI .L fun i =>
    { i with store := { i.store with spad := [(1, 0x20)] }, copies := if fgo then [] else [c] }.modStr .L
      fun x => { x with eq := if fgo then [.cmd c] else [] }

/-- What `CopyPointResults` asks of a running operation, and of the places of its next point. -/
def pointRuns (en : Engine) (s : State) : Bool :=
  let e0 := s.on 0 s.stream
  (e0.inst.op en).any fun c =>
    let e := e0.on 0 c.st
    c.op.copy.isSome && c.prog.pt < fPoints c.snap && !e.follows c && isOk (e.inst.sound [.cmd c.id])
@[inherit_doc pointRuns] def pointPlaces (en : Engine) (s : State) : Bool :=
  let e0 := s.on 0 s.stream
  (e0.inst.op en).any fun c => c.op.copy.any fun (mode, par) =>
    let e := e0.on 0 c.st
    let ix := pointAt (fBounds c.snap) c.prog.pt
    let n := fSize c.snap 1
    let none_ := c.prog.buf != [] || (mode == .unfold && padded par ix)
    let src := if none_ then some [] else (e.elemAt c .read 0 (fOffset c.snap 0 ix) n n).toOption
    src.any fun src => (e.elemAt c .write 1 (fOffset c.snap 1 ix) n n).toOption.any fun dst =>
      mode != .decode && (mode != .ordered || c.prog.applied) && (none_ || src != []) &&
        (!mode.reduces || isOk (e.elemAt c .read 1 (fOffset c.snap 1 ix) n n)) &&
        !(src ++ dst).any e.inst.held && !(src ++ dst).any e.cutOff && (e.inst.phase.live ||
          (!c.prog.fault && (addSectors c.prog.sectors dst).length == c.prog.sectors.length))

/-- What an attempt at the next point comes to: it moves, no cause met, or a refresh window holds it. -/
def pointMoves (en : Engine) (s : State) : Bool :=
  let e0 := s.on 0 s.stream
  (e0.inst.op en).any fun c => c.prog.hold.isNone && match (e0.on 0 c.st).moves c 0 with
    | .ok _ _ none => true
    | _ => false
@[inherit_doc pointMoves] def pointHeld (en : Engine) (s : State) : Bool :=
  let e0 := s.on 0 s.stream
  (e0.inst.op en).any fun c => match (e0.on 0 c.st).moves c 0 with
    | .wait (some _) => true
    | _ => false

/-- The furrow of a copy from bank 0 of the granary. -/
def granFur : Fur := copyFur ^^^ 6 <<< 96

theorem wit_CopyPointResults :
    -- each mode of an `FGO` and of a copy: two points of one word, the last point, and in a stopped instance
    -- one of a sector that was begun
    (∀ s ∈ [moving .plain 0 true {}, moving .unfold 0 true {}, moving .unfold 0x0008440100084401 true {}, moving .plain 0 true { pt := 1 }],
      (pointRuns (.fgo .L) s && pointPlaces (.fgo .L) s && pointMoves (.fgo .L) s) = true) ∧
    (∀ s ∈ [moving .plain 0 false {}, moving .reduce 0 false {}, moving .ordered 0 false { applied := true },
        moving .ordered 0 false { applied := true, buf := [[0, 0, 0, 0]] }],
      (pointRuns (.copy 9) s && pointPlaces (.copy 9) s && pointMoves (.copy 9) s) = true) ∧
    (let s := moving .plain 0 true { pt := 1, sectors := [.spad 0x10] }
     let s := s.setInst { s.inst with phase := .stopped false }
     (pointRuns (.fgo .L) s && pointPlaces (.fgo .L) s && pointMoves (.fgo .L) s) = true) ∧
    padded 0x0008440100084401 [0, 0, 0, 0, 0, 0] = true ∧ padded 0 [0, 0, 0, 0, 0, 0] = false ∧
    -- a block, and a read ahead of an ordered reduce
    (let s := moving .decode 255 true {}
     (pointRuns (.fgo .L) s && pointMoves (.fgo .L) s) = true) ∧
    (let s := moving .ordered 0 false { buf := [[0, 0, 0, 0]] }
     (pointRuns (.copy 9) s && pointMoves (.copy 9) s) = true) ∧
    -- a refresh window that holds a point, and one that has ended
    (let s := moving .plain 0 true {}
     let s := s.setInst (s.inst.modStr .L fun x => { x with eq := [.cmd { cmd 9 granFur with started := true }] })
     fKind granFur 0 = .granary ∧ (pointRuns (.fgo .L) s && pointPlaces (.fgo .L) s && pointHeld (.fgo .L) s) = true) ∧
    (let s := moving .plain 0 true { hold := some 0 }
     (((s.on 0 s.stream).inst.op (.fgo .L)).map (·.prog.hold)) = some (some 0) ∧ 0 ≤ s.mtime.toNat) := by decide +kernel

/-- M with a command of the Loom in progress. -/
def weaving (pair : Pair) (pt : Nat) : Cmd :=
  { cmd 9 weaveFur with st := .M, op := .weave false false pair 0 false false, started := true, prog := { pt := pt } }
@[inherit_doc weaving] def onLoom (c : Cmd) : State :=
  fur .M fun i => i.modStr .M fun x => { x with eq := [.cmd c] }

/-- The hypotheses of a step of the Loom. -/
def steps (c : Cmd) : Bool :=
  let m := (onLoom c).on 0 .M
  (Weave.of c).any fun w =>
    let a := fetchRows (m.rowA w) (List.range 32)
    let b := fetchRows (m.colB w) (List.range 32)
    m.str.eq == [.cmd c] && c.started && m.inst.phase.live && !m.inst.inhnd && c.prog.hold.isNone &&
      c.prog.pt < w.total && c.prog.stage.isEmpty && isOk (m.claims 0 (m.inst.loomUnits c)) && isOk (m.reedOk w) &&
      a.2.isNone && b.2.isNone && isOk (m.twoBooks w a.1 b.1) && isOk (m.stepSound w) && (w.raw || isOk (m.weaveTile w))

theorem wit_LoomEventResults :
    (∀ c ∈ [weaving .f16f16 0, weaving .s4s4 0, weaving .s8s8 0], steps c = true) ∧
    pairSteps .s4s4 = 1 ∧ pairSteps .s8s8 = 2 ∧ Pair.f16f16.sheaf = false ∧ Pair.s4s4.sheaf = true ∧
    -- a finished `WEAVE`
    (let c := weaving .f16f16 1
     let m := (onLoom c).on 0 .M
     m.str.eq = [.cmd c] ∧ ∃ w, Weave.of c = some w ∧ w.total ≤ c.prog.pt) ∧
    -- a command that is none
    (let c := { weaving .f16f16 0 with op := .lmode true }
     let m := (onLoom c).on 0 .M
     Weave.of c = none ∧ c.shares = false ∧ (∃ e, m.claims 0 (m.inst.loomUnits c) = .ok e) ∧
       ∃ u, m.loomRun c = .ok u) ∧
    -- a `DRAIN` that shares a byte, before and after it has read it
    (let c := { weaving .f16f16 0 with op := .drain .i4 .sat true 0x4000000000000000 0 0x4000000000000000 }
     ((onLoom c).on 0 .M).str.eq = [.cmd c] ∧ c.started = true ∧ Weave.of c = none ∧ c.shares = true ∧ c.shared = none ∧
       ((onLoom c).on 0 .M).inst.phase.live = true ∧ { c with shared := some [] }.shared ≠ none) ∧
    -- one that meets a cause
    (let c := { weaving .f16f16 0 with op := .accld 0 1 }
     let m := (onLoom c).on 0 .M
     m.str.eq = [.cmd c] ∧ Weave.of c = none ∧ c.shares = false ∧ c.head.wamt = 0 ∧ (∃ e, m.claims 0 (m.inst.loomUnits c) = .ok e) ∧
       ∃ t, m.loomRun c = .error t) :=
  ⟨by decide +kernel, by decide +kernel, by decide +kernel, by decide +kernel, by decide +kernel,
    ⟨by decide +kernel, _, rfl, by decide +kernel⟩,
    ⟨by decide +kernel, by decide +kernel, ok_of (by decide +kernel), ok_of (by decide +kernel)⟩, by decide +kernel,
    by decide +kernel, by decide +kernel, by decide +kernel, by decide +kernel, ok_of (by decide +kernel),
    error_of (by decide +kernel)⟩

/-- The Loom with a started command of an operation and parameter block, and a raw tile in use. -/
def loomWith (op : CmdOp) (block : Nat) : State :=
  let c : Cmd := { weaving .f16f16 0 with op := op, block := block, shared := some [] }
  let s := onLoom c
  (s.setInst { s.inst with store := { s.inst.store with raw := { valid := true } } }).on 0 .M

/-- The command runs where `e` is the state it runs in, and a test of that state holds. -/
def loomTries (op : CmdOp) (block : Nat) (f : State → Bool) : Bool :=
  let m := loomWith op block
  match running m.str.eq with
  | some c => c.op == op && m.inst.phase.live && match m.claims 0 (m.inst.loomUnits c) with
    | .ok e => (!c.shares || c.shared.isSome) && f e
    | .error _ => false
  | none => false

/-- An address of the scratchpad. -/
abbrev loc0 : Word := 0x4000000000000000

theorem wit_LoomCommandEffects :
    let inTile (e : State) : Bool := decide (0 < e.inst.acct) && isOk (e.inst.tileSound 0)
    let reads (n : Nat) (e : State) : Bool := isOk (e.at_ .read loc0.toNat n)
    [(127 : Word), 0, -127].all (fun adj => loomTries (.scacc 0 adj) 0 fun e =>
      e.inst.store.raw.valid && inTile e && isOk (e.inst.sound [.raw])) = true ∧
    (∀ col, ∀ fp, loomTries (.accadd col fp 0 loc0 0x3F800000) 0 (fun e => inTile e && reads 128 e) = true) ∧
    loc0.toNat % 64 = 0 ∧ place loc0.toNat = .local_ 0 ∧
    [(0 : Word), 768].all (fun n => loomTries (.accclr 0 n) 0 fun e => n == 0 || decide (n.toNat ≤ e.inst.acct)) = true ∧
    (∀ op ∈ [CmdOp.lmode true, .reedsel none, .reedsel (some 3)], loomTries op 0 (fun _ => true) = true) ∧
    loomTries (.cbq (.reg 1) 7) 0 (fun e => isOk (e.inst.sound [.cb 7])) = true ∧
    loomTries (.mdcopy 131056 loc0 16) 0 (reads 16) = true ∧ loomTries (.mdcopy 131072 loc0 0) 0 (reads 0) = true ∧
    -- a `DRAIN` of one element, by bytes and by half bytes, and of one sheaf
    (∀ x ∈ [(Ty.i8, (1 : Nat)), (.i4, 1)], loomTries (.drain x.1 .sat true loc0 0 loc0) 0 (fun e => inTile e && reads 528 e &&
      DrainBlock.ok ⟨0⟩ x.1 && isOk (e.at_ .write loc0.toNat x.2) &&
        (x.1.convert 0 .sat false (Fl.ofInt (0 + Ty.i32.int 0))).isSome) = true) ∧
    loomTries (.drain .sh8 .sat true loc0 0 loc0) 0 (fun e => inTile e && reads 528 e && DrainBlock.ok ⟨0⟩ .sh8 &&
      isOk (e.drainSheaf ⟨0⟩ true (e.inst.tile 0) loc0.toNat 0)) = true := by decide +kernel

theorem wit_LoomCommandImages :
    loomTries (.accld 0 loc0) 0 (fun e => isOk (e.imageOf .read 0 loc0)) = true ∧
    loomTries (.accst loc0 0) 0 (fun e => isOk (e.imageOf .write 0 loc0) && isOk (e.inst.tileSound 0)) = true ∧
    loomTries (.cbld 7 loc0) 0 (fun e => isOk (e.at_ .read loc0.toNat 2304)) = true := by decide +kernel

theorem wit_LoomCommandReed : loomTries (.reedld 3 loc0) 0 (fun e => isOk (e.at_ .read loc0.toNat 8192)) = true := by
  decide +kernel

/-- A small header: C with 8 registers, a unit of scratchpad. -/
def smallHdr : BitVec 512 := .ofNat 512 (8 * 2 ^ 256 + 2 ^ 352 + 2 ^ 464)

/-- The graph of launch queue 0 of die 0, and a node of it with an instance that waits. -/
def graph0 : GraphId := ⟨0, 0, 0⟩
@[inherit_doc graph0] def node0 (level : Nat) : Node :=
  { g := graph0, rec_ := .ofNat 512 (2 ^ 64), hdr := smallHdr, decl := [], priv := false, state := .ready, total := 1,
    wait := [⟨0, 1, level, 0, 0, 0⟩] }

/-- An instance of that node. -/
def inst0 (f : Inst → Inst) : Inst :=
  f { uid := 1, phase := .running, hdr := smallHdr, streams := { Five.all {} with c := { active := true } } }

/-- The module with that node, a launch queue with a record, and instances on the cores given. -/
def sched (level : Nat) (cores : SMap Core) : State :=
  { mtime := 32768, nextUid := 20, cores := cores,
    plots := [(0, { supUp := true })],
    dies := [(0, { nodes := [(0, some (node0 level))], rot := [(level, [graph0])], lj := { base := 0x100000, size := 1280 },
                   lq := [(0, { on := true })], reeve := { up := true },
                   wq := [(0, { state := .active, ents := [.rec_ (.ofNat 512 (2 ^ 64)) false false] })] })] }

/-- Core 0 with one instance. -/
def one (f : Inst → Inst) : State := sched 0 [(0, { main := some (inst0 f) })]

/-- Every core of plot 0 with an instance of level 0. -/
def crowd : State := sched 3 ((List.range 12).map fun k => (k, { main := some (inst0 fun i => { i with uid := k + 1 }) }))

/-- The graph of launch queue 0 sampled: idle where `idle`, with the sample given. -/
def sampled (idle : Bool) (x : Option (Nat × Nat × Nat)) : State :=
  let s := sched 0 []
  { s with dies := [(0, { lq := [(0, { on := true, opened := true, sample := x })], sent := [(0, 3)],
                          recv := [(0, if idle then 3 else 2)] })] }

theorem wit_DispatchEventResults :
    -- a record is taken
    (let s := sched 0 []
     (s.dieAt 0).stopped = false ∧ (s.dieAt 0).full = false ∧ s.lqNext 0 = some 0 ∧
       (match s.popQueue 0 0 with
        | some (_, r, s1) => match (s1.setDie 0 { s1.dieAt 0 with lqTurn := 1 }).takeRecord 0 0 r with
          | .ok s2 => isOk s2.settleGraphs
          | .error _ => false
        | none => false) = true) ∧
    -- an instance is placed on a core
    (let s := sched 0 []
     s.nodeAt 0 0 = some (node0 0) ∧ s.nextPlaced 0 = some (0, 0, 0) ∧ s.fits 0 0 (node0 0) 0 0 = true) ∧
    -- it starts
    (let s := one fun i => { i with phase := .starting }
     (s.coreAt 0).act = some (inst0 fun i => { i with phase := .starting }) ∧ (s.dieAt 0).stopped = false ∧
       s.startsLater (inst0 fun i => { i with phase := .starting }) = false) ∧
    -- it ages, at the last moment and level
    (let s := sched 1 []
     (node0 1).wait[0]? = some ⟨0, 1, 1, 0, 0, 0⟩ ∧ 2 ^ (s.dieAt 0).age.toNat = 2 * (s.mtime.toNat - 0)) ∧
    -- a drained instance goes on to its next iteration, or retires
    (let i := inst0 fun i => { i with phase := .draining, loops := [0x01000002], idx := [0] }
     ((one fun _ => i).on 0 .C).self.act = some i ∧ i.quietWork = true ∧ nextIter i.loops i.idx = some [1]) ∧
    (let i := inst0 fun i => { i with phase := .draining, loops := [0x01000002], idx := [1] }
     let e := (one fun _ => i).on 0 .C
     e.self.act = some i ∧ e.self.pre = none ∧ nextIter i.loops i.idx = none ∧
       isOk ((e.vacate 0).instRetired i.launch false) = true) ∧
    -- a pre-empting one retires
    (let i := inst0 fun i => { i with phase := .draining }
     let e := (sched 0 [(0, { main := some (inst0 id), pre := some i })]).on 0 .C
     e.self.act = some i ∧ e.self.pre = some i ∧ nextIter i.loops i.idx = none ∧
       isOk ((e.vacate 0).instRetired i.launch false) = true) ∧
    -- samples of a graph
    ((sampled false none).graphIdle 0 0 = false ∧ (sampled true none).graphIdle 0 0 = true ∧
      (sampled true (some (32512, 3, 3))).graphIdle 0 0 = true ∧
      (sampled true (some (32512, 3, 3))).sums graph0 0 = (3, 3) ∧
      32512 + 256 = (sampled true (some (32512, 3, 3))).mtime.toNat ∧
      isOk ((sampled true (some (32512, 3, 3))).endGraph 0 0).settleGraphs = true) := by decide +kernel

/-- Writes of the device inside HBM happen. -/
theorem devWrite_ok {s : State} {pa : Nat} {b : List Byte} (h : pa + b.length ≤ hbmEnd) :
    s.devWrite pa b = .ok (s.wr pa b) := by
  simp [State.devWrite, h]

/-- Where a unit's image ends in a context save area. -/
def unitEnd : Unit_ → Nat
  | .spad u => 0x080000 + 4096 * u + 4096
  | .acc t => 0x200000 + 4096 * t + 4096
  | .fur n => 0x020000 + 128 * n + 128
  | .cb b => 0x024000 + 0x1000 * b + 2304
  | .reed t => 0x02C000 + 0x2000 * t + 8192
  | .md => 0x034000 + 131072
  | .raw => 0

theorem flatMap_length {α : Type} {l : List α} {f : α → List Byte} {n : Nat} (k : ∀ x, (f x).length = n) :
    (l.flatMap f).length = l.length * n := by
  induction l with
  | nil => simp
  | cons x t ih => rw [List.flatMap_cons, List.length_append, ih, k, List.length_cons, Nat.succ_mul, Nat.add_comm]

theorem toBytes_length (n x : Nat) : (toBytes n x).length = n := by simp [toBytes]

theorem freeBytes_length (k n : Nat) : (freeBytes k n).length = n := by simp [freeBytes]

theorem unit_length (i : Inst) (u : Unit_) : (i.unitBytes u).1 + (i.unitBytes u).2.length = unitEnd u := by
  have t := toBytes_length
  have g {α : Type} (d : α) (m : SMap α) (a n : Nat) : (SMap.getList d m a n).length = n := by simp [SMap.getList]
  have c (b : Nat) : (i.cbImage b).length = 2304 := by
    rw [Inst.cbImage, List.length_append, flatMap_length (n := 8) (fun _ => t _ _), List.length_range, List.length_map,
      List.length_range]
  have r (m : List (BitVec 16)) : (m.flatMap fun e => toBytes 2 e.toNat).length = m.length * 2 :=
    flatMap_length fun _ => t _ _
  cases u <;> simp only [Inst.unitBytes, unitEnd, g, t, c, r, List.length_nil]

/-- What follows a device write inside HBM follows its written state. -/
theorem devWrite_then (s : State) (pa : Nat) (b : List Byte) (next : State → Except Fault State)
    (inside : pa + b.length ≤ hbmEnd) : (s.devWrite pa b).bind next = next (s.wr pa b) := by
  simp only [devWrite_ok inside, Except.bind]

/-- A context without commands is saved where its area lies in HBM. -/
theorem save_ok {s : State} {core : Nat} {i : Inst} {p : Bool} {units : List Unit_} (hc : i.cmds = [])
    (hb : (s.coreAt core).ctx + 0x500000 ≤ hbmEnd) (hu : ∀ u ∈ units, unitEnd u ≤ 0x500000) :
    ∃ t, s.saveContext core i p units = .ok t := by
  have fold (l : List Unit_) (hl : ∀ u ∈ l, unitEnd u ≤ 0x500000) (c : Nat) (hk : c + 0x500000 ≤ hbmEnd) (s : State) :
      ∃ t, l.foldlM (fun s u => let (o, b) := i.unitBytes u; s.devWrite (c + o) b) s = .ok t := by
    induction l generalizing s with
    | nil => exact ⟨s, rfl⟩
    | cons u r ih =>
      have e := unit_length i u
      have f := hl u (List.mem_cons_self ..)
      simp only [List.foldlM_cons, bind, Except.bind]
      rw [devWrite_ok (by omega)]
      exact ih (fun v hv => hl v (List.mem_cons_of_mem _ hv)) _
  have h1 : (ctxHeader p core 0 units).length = 4096 := toBytes_length _ _
  have h2 (k : Nat) : (freeBytes k 0x10000).length = 0x10000 := freeBytes_length _ _
  unfold State.saveContext
  extract_lets ctx n
  have e0 : n = 0 := by rw [show n = i.cmds.length from rfl, hc]; rfl
  simp only [bind]
  rw [e0, devWrite_then _ _ _ _ (by omega), devWrite_then _ _ _ _ (by rw [h2]; omega)]
  simp only [hc, List.zipIdx_nil, List.flatMap_nil]
  rw [devWrite_then _ _ _ _ (by simp only [List.length_nil]; omega)]
  obtain ⟨t, ht⟩ := fold units hu ctx hb _
  rw [ht]
  exact ⟨_, rfl⟩

/-- An instance stopped by a cause, on a core whose plot has a supervisor. -/
def stopped (cause : Byte) (f : Inst → Inst) : State :=
  let i := inst0 fun i => f { i with phase := .stopped false }
  { sched 0 [(0, { fcause := cause, main := some i })] with
    dies := [(0, { nodes := [(0, some { node0 0 with wait := [], placed := 1 })], reeve := { up := true } })] }

theorem wit_PreemptionAndSupervisorResults :
    (let s := crowd
     let pool := s.leavePool 0 0 0 3 11 (node0 3)
     let stop := (State.on { pool with nextUid := pool.nextUid + 1 } 11 .C).halt
     let old := stop.inst.flushAll.unstage
     s.nodeAt 0 0 = some (node0 3) ∧ (s.dieAt 0).stopped = false ∧ s.nextPreempt 0 = some (0, 0, 0, 11) ∧
       s.quiet 11 = true ∧ (∃ t, stop.saveContext 11 old true [] = .ok t) ∧
       takenUnits (fld (node0 3).hdr 352 9) (fld old.hdr 352 9) 384 .spad = [] ∧
       takenUnits (fld (node0 3).hdr 368 10) old.acct 768 .acc = [] ∧ ∀ t : State, t.claims 11 [] = .ok t) ∧
    (∀ c ∈ [(0x08 : Byte), 0x11], ∀ ext ∈ [false, true],
      let s := stopped c fun i => { i with external := ext }
      let i := inst0 fun i => { i with phase := .stopped false, external := ext }
      (s.plotAt 0).supUp = true ∧ s.quiet 0 = true ∧ (s.coreAt 0).act = some i ∧ (s.coreAt 0).fcause = c ∧
        (s.coreAt 0).pre = none ∧ (s.dieAt 0).stopped = false ∧
        (s.vacate 0).nodeAt 0 0 = some { node0 0 with wait := [], placed := 1 } ∧
        isOk (((s.voidTickets 0 i.uid).vacate 0).instRetired i.launch true) = true) ∧
    (let s := stopped 0x08 id
     inst0 (fun i => { i with phase := .stopped false }) = s.restored 0 (inst0 fun i => { i with phase := .stopped false }) ∧
     ∃ t, s.saveContext 0 (inst0 fun i => { i with phase := .stopped false }) false
       (inst0 fun i => { i with phase := .stopped false }).allUnits = .ok t) ∧
    (let s := one id
     (s.plotAt 0).supUp = true ∧ s.quiet 0 = true ∧ (s.coreAt 0).act = some (inst0 id) ∧
       ∀ b, (inst0 id).phase ≠ .stopped b) :=
  ⟨⟨by decide +kernel, by decide +kernel, by decide +kernel, by decide +kernel,
      save_ok (by decide +kernel) (by decide +kernel) (by decide +kernel), by decide +kernel, by decide +kernel,
      fun _ => rfl⟩, by decide +kernel, ⟨by decide +kernel, save_ok (by decide +kernel) (by decide +kernel) (by decide +kernel)⟩,
    by decide +kernel, by decide +kernel, by decide +kernel, fun b h => by cases h⟩

/-- Core 0 STOPPED or not, with a port and a debug view that hold a lower half, or a latched upper one. -/
def ported (stop : Bool) (off : Nat) : State :=
  let i := inst0 fun i => { i with phase := if stop then .stopped false else .running }
  let p : Port := { low := some (off / 8 * 8, 7), high := some (off, 9) }
  { sched 0 [(0, { main := some i, port := p, dview := p })] with fw := { stage := 6 } }

theorem wit_PortResults :
    (∀ stop ∈ [true, false], ∀ off ∈ [0x1004, 0x3FFC],
      let s := ported stop off
      let c := s.coreAt 0
      (s.plotAt 0).supUp = true ∧ s.quiet 0 = true ∧ s.hartsRun = true ∧ off % 8 = 4 ∧ c.port.low = some (off / 8 * 8, 7) ∧
        c.port.high = some (off, 9) ∧ c.dview.low = some (off / 8 * 8, 7) ∧ c.dview.high = some (off, 9) ∧
        off / 8 * 8 < 0x4000 ∧ c.isStopped = stop ∧
        isOk ((s.setCore 0 { c with port := { c.port with low := none } }).portPut 0 (off / 8 * 8) 7) = true ∧
        isOk ((s.setCore 0 { c with dview := { c.dview with low := none } }).portPut 0 (off / 8 * 8) 7) = true) ∧
    65528 % 8 = 0 ∧ 65528 < 65536 := by decide +kernel

-- No half held or latched; PCMD, PSTAT, DSTAT and a counter; another size or alignment.
theorem wit_PortResultsElse :
    let c : Core := { main := some (inst0 fun i => { i with phase := .stopped false }) }
    let s : State := { sched 0 [(0, c)] with fw := { stage := 6 } }
    c.port.low = none ∧ c.port.high = none ∧ c.isStopped = true ∧ s.quiet 0 = true ∧
      isOk (s.portPut 0 0x1000 7) = true ∧ isOk (s.pcmd 0 7) = true ∧ s.hartsRun = true ∧
      (s.plotAt 0).supUp = true ∧ 0x4004 / 8 * 8 = 0x4000 ∧ 0x400C / 8 * 8 = 0x4008 ∧ 0x4014 / 8 * 8 = 0x4010 ∧
      0x47C / 8 * 8 = 0x478 ∧ 0x1002 % 4 ≠ 0 ∧ ((ported false 0x4014).coreAt 0).isStopped = false ∧
      (ported false 0x4014).hartsRun = true := by decide +kernel

/-- Die 0 with a ring-parse queue 5 over the packet at 10000H, which has used some of its slice, a queue 6 with a
reservation out of time, and a Reeve that has been silent for 10 ms. -/
def ringed (used : Nat) (cores : SMap Core) : State :=
  let desc : BitVec 512 := .ofNat 512 (6 * 2 ^ 64 + 2 ^ 96 + 0x10000 * 2 ^ 128 + 2 ^ 192)
  let s := sched 0 cores
  { s with
    mem := [(0x1000, 0x01), (0x1001, 0x20), (0x2000, 0x01), (0x2001, 0x30), (0x3000, 0x3B), (0x10000, 1), (0x10001, 8)]
    dies := [(0, { s.dieAt 0 with
      wq := [(5, { state := .active, desc := desc }), (6, { state := .active, ents := [.resv 9 100000000] })],
      nodes := [(0, some { node0 0 with hdr := smallHdr ||| 1 <<< 336, decl := [.ofNat 128 (0x10000 + 64 * 2 ^ 64)] })],
      roots := [(0, some 1)], parser := { cur := some 5, usedNs := used },
      lq := [(5, { on := true })], reeve := { up := true, beatNs := 10000000 } })] }

/-- The same with something changed in queue 5. -/
def ringAt (used : Nat) (f : WQ → WQ) : State :=
  let s := ringed used []
  s.setWq 0 5 (f (s.wqAt 0 5))

/-- A packet's header in the ring of queue 5. -/
def packet (hd : Nat) : State :=
  let s := ringed 0 []
  s.wr 0x10000 (toBytes 4 hd)

theorem wit_ReeveAndParserResults :
    (let s := ringed 999 []
     let d := s.dieAt 0
     let w := s.wqAt 0 5
     let r : BitVec 512 := .ofNat 512 0x801
     let p := s.setDie 0 { d with parser := ⟨some 5, 999⟩ }
     let pushed := (p.putQueue 0 5 { w with ents := w.ents ++ [.resv 0 0] }).commitAt 0 5 w.ents.length r false
     d.serving = some 5 ∧ (p.dieAt 0).roots.get none w.asid.toNat = some 1 ∧
       p.readAs w.asid 1 true 0x10000 64 = some (toBytes 64 0x801) ∧ fld r 16 16 = w.ridx.toNat / 2 ^ w.pktlog % 65536 ∧
       fld r 0 8 < 0xF0 ∧ fld r 8 8 = 8 ∧ w.full = false ∧ (pushed.wqAt 0 5).ridxAddr = 0 ∧
       999 < (d.lq.get {} 5).tSlice ∧ (d.lq.get {} 5).tSlice = ((ringed 1000 []).dieAt 0).parser.usedNs ∧ d.reeve.beatNs = 10000000 ∧ d.reeve.up = true ∧
       (s.wqAt 0 6).ents[(BitVec.ofNat 32 0 - (s.wqAt 0 6).head).toNat]? = some (.resv 9 100000000) ∧
       s.resvLimit 0 9 = 100000000) ∧
    -- an instance out of time
    (let i := inst0 fun i => { i with ranNs := 10000000000 }
     let e := (ringed 0 [(0, { main := some i })]).on 0 .C
     e.self.act = some i ∧ i.phase.live = true ∧ (e.dieAt 0).reeve.up = true ∧ (e.lqAt 0 0).tInst = i.ranNs) ∧
    -- a ring producer that has stood for its time: shown, and as a victim
    (let i := inst0 fun i => { i with phase := .stopped false, stopNs := 1000000 }
     let s := ringed 0 [(0, { main := some i })]
     (s.coreAt 0).act = some i ∧ i.phase.isStopped = true ∧ s.stalledOut 0 i = true ∧ s.quiet 0 = true ∧
       isOk (s.abort 0) = true) ∧
    (let i := inst0 fun i => { i with phase := .preempted false, stopNs := 1000000 }
     let s := ringed 0 [(0, { main := some i, pre := some (inst0 fun i => { i with uid := 2 }) })]
     (s.coreAt 0).main = some i ∧ (s.coreAt 0).pre.isSome = true ∧ s.stalledOut 0 i = true ∧
       isOk (s.abortVictim 0 i) = true) ∧
    -- dispatch that stands, and is rebuilt
    (let s := ringed 0 []
     let t := s.setDie 0 { s.dieAt 0 with stopped := true, reeve := { up := true, fresh := true } }
     let d := t.dieAt 0
     let d1 := { d with jlog := d.jlog.map fun (e : JEnt) => t.jentAt e.addr, llog := d.llog.filterMap t.lentAt }
     let b := (d1.llog.foldl (fun (s : State) e => s.rebuild 0 e) (t.setDie 0 { d1 with rot := [], nodes := [] })).rejoin 0
     d.stopped = true ∧ d.reeve.up = true ∧ d.reeve.fresh = true ∧
       isOk (b.setDie 0 { b.dieAt 0 with stopped := false }).settleGraphs = true) ∧
    -- the slice of a ring-parse queue that is no launch queue
    ((ringed 0 []).dieAt 0).reeve.slices.get 1000 2047 = 1000 ∧
    (let s : State := { dies := [(7, { reeve := { up := true } })] }
     (s.dieAt (63 / 8)).reeve.up = true ∧ (s.dieAt 0).reeve.up = false ∧ (s.plotAt 0).supUp = false) ∧
    -- Reeves and supervisors have been loaded
    4 ≤ ({ fw := { stage := 4 } } : State).fw.stage := by decide +kernel

-- Packets that are stale, ahead, of a bad type or length, into a full queue, that cannot be read, and that
-- move a RIDX that is to be published.
theorem wit_ReeveAndParserResultsElse :
    (let x (hd : Nat) := ((packet hd).readAs 0 1 true 0x10000 64).map fun b => fld (BitVec.ofNat 512 (ofBytes b)) 0 32
     x 0xFFFF0801 = some 0xFFFF0801 ∧ x 0x10801 = some 0x10801 ∧ x 0x8F0 = some 0x8F0 ∧ x 0x001 = some 0x001 ∧
       x 0x901 = some 0x901 ∧ (packet 0x901).wqAt 0 5 = (ringed 0 []).wqAt 0 5) ∧
    ((0xFFFF + 1) % 65536 = 0 ∧ (1 + 1) % 65536 ≠ 0 ∧ 0xF0 ≤ 0x8F0 % 256 ∧ 0x001 / 256 = 0 ∧ 8 < 0x901 / 256) ∧
    (let s := ringAt 0 fun w => { w with ents := List.replicate 64 (.resv 7 0) }
     (s.dieAt 0).serving = some 5 ∧ (s.wqAt 0 5).full = true) ∧
    (let s := { ringed 0 [] with mem := [] }
     (s.dieAt 0).serving = some 5 ∧ s.readAs 0 1 true 0x10000 64 = none) ∧
    (let s := (ringed 0 []).setDie 0 { (ringed 0 []).dieAt 0 with roots := [] }
     (s.dieAt 0).serving = some 5 ∧ (s.dieAt 0).roots.get none 0 = none) ∧
    (let s := ringAt 0 fun w => { w with ridxAddr := 0x20000 }
     (s.wqAt 0 5).ridxAddr ≠ 0 ∧ s.publishAt (s.wqAt 0 5) 1 = some 0x20000) ∧
    (let s := ringAt 0 fun w => { w with ridxAddr := 0x8000000000 }
     (s.wqAt 0 5).ridxAddr ≠ 0 ∧ s.publishAt (s.wqAt 0 5) 1 = none) := by decide +kernel

/-- The image that flash slot 0 of a kind holds is loaded where firmware accepts it; whether it does is left
to the mathematics of `Config` (log 40). -/
theorem wit_reloads (img : Image) (k : ImgKind) (h : imageOk none k img = true) :
    Firmware.load { flash := [(2 * kindNo k, some img)] } k = some img := by
  cases k <;> simp [Firmware.load, Firmware.slot, SMap.get, kindNo, h]

/-- A hart whose page names queue 64 of die 0, free or in use; queues 64 with a record, 65 FREE, 66 in ERROR. -/
def harted (n : Nat) (pending : Bool) (arg : Word) : State :=
  { mem := [(0x10008, 6)], fw := { stage := 6 },
    harts := [(63, { queue := .ofNat 11 n, pending := pending, arg := arg })],
    dies := [(0, { wq := [(64, { state := .active, desc := 6 * 2 ^ 64, ents := [.rec_ 5 false false] }),
      (66, { state := .error })] })] }

/-- The same hart in a mode, with `satp`. -/
def hartIn (m : HMode) (satp : Word) : State :=
  (harted 64 false 0).setHart 63 { (harted 64 false 0).hartAt 63 with cpu := { mode := m, csr := [(0x180, satp)] } }

/-- What an address of an access comes to. -/
def hartAns (s : State) (write : Bool) (a n : Nat) : Option (Nat ⊕ HartTrap) :=
  match s.hartAddr 63 write a n with
  | .ok p => some (.inl p)
  | .error t => some (.inr t)

theorem wit_HostResults :
    (harted 64 true 0).hartsRun = true ∧
    ((harted 64 true 0).hartAt 63).pending = true ∧ ((harted 64 false 0).hartAt 63).pending = false ∧
    (∀ e ∈ [(64, 1), (64, 2), (64, 3), (65, 4), (66, 5), (64, 6), (64, 7)],
      isOk ((harted e.1 false 0x10000).hostOp e.2 0 e.1 0x10000) = true) ∧
    (∀ e ∈ [(65, 1), (65, 2), (64, 4), (64, 5), (65, 6)],
      isOk ((harted e.1 false 0x10000).hostOp e.2 0 e.1 0x10000) = false) ∧
    isOk ((harted 64 false 0x10001).hostOp 7 0 64 0x10001) = false ∧
    0x017FFFFFFFF8 + 8 ≤ 0x018000000000 ∧ 0x017FFFFFFFF8 % 8 = 0 := by decide +kernel

-- The last words of HBM, of a page and beyond, by mode; a translation that there is none for.
theorem wit_HostResultsModes :
    (∀ m ∈ [HMode.machine, .supervisor, .user], ∀ w,
      hartAns (hartIn m 0) w 0x017FFFFFFFF8 8 = some (.inl 0x017FFFFFFFF8) ∧
      hartAns (hartIn m 0) w 0x02000003FFF8 8 = some (.inl (0x020000000000 + 0x1000 * 63 + 0xFF8)) ∧
      hartAns (hartIn m 0) w 0x020000040000 8 = some (.inl (0x020000000000 + 0x1000 * 63 + 0x1000))) ∧
    (∀ w, hartAns (hartIn .supervisor (10 <<< 60)) w 0x1000 8 = some (.inr .page)) ∧
    (∀ m ∈ [HMode.machine, .supervisor, .user], ((hartIn m 0).hartAt 63).cpu.eff = m) ∧
    fld ((hartIn .user 0).hartAt 63).cpu.satp 60 4 ≠ 10 := by decide +kernel

-- RISC-V's own encodings: C.ADDI of sp, C.J back over itself, and no instruction of zeros (R307, log 36).
theorem test_hart_short_forms : Rv.expand 0x1141 = some 0xFF010113 ∧ Rv.expand 0xBFC5 = some 0xFF1FF06F ∧
    Rv.expand 0 = none := by decide +kernel

/-- A hart in user mode at an ECALL, whose cause 8 goes to supervisor mode. -/
def calling : State :=
  { (harted 64 false 0).wr 0x10000 [0x73, 0, 0, 0] with
    harts := [(63, { cpu := { mode := .user, pc := 0x10000, csr := [(0x105, 0x4000), (0x302, 0x100)] } })] }

-- An ECALL of user mode: `scause` 8, `sepc` its own address, the handler at `stvec` (R307, log 36).
theorem test_hart_ecall :
    (match calling.hartStep 63 with
      | .next s =>
        let c := (s.hartAt 63).cpu
        c.mode == .supervisor && c.pc == 0x4000 && c.csr.get 0 0x142 == 8 && c.csr.get 0 0x141 == 0x10000
      | _ => false) = true := by decide +kernel

/-- A hart in machine mode, with its pc at the bytes given. -/
def harting (b : List Byte) (ie : Word) : State :=
  { (harted 64 false 0).wr 0x10000 b with
    harts := [(63, { cpu := { pc := 0x10000, csr := [(0x300, 8), (0x304, ie), (0x344, 8)] } })] }

/-- C in a nudge handler, with a source of the next nudge pending. -/
def renudged : State := tstI .C fun i => { i with nmask := true, nudgevec := 0x30000, arm := 1, tbp := true }

/-- What a step answers, when it goes on. -/
def nextOf (o : Out) : State := match o with
  | .next t => t
  | _ => {}

theorem next_of {o : Out} (h : (match o with | .next _ => true | _ => false) = true) : o = .next (nextOf o) := by
  cases o with
  | next t => rfl
  | fault f => cases h
  | refused r => cases h

theorem wit_HostResultsStep :
    -- an interrupt; a fetch from where nothing is; an instruction, a load and a store, and one of a control register
    ((harting [] 8).hartAt 63).cpu.interrupt = some 3 ∧ ((harting [] 0).hartAt 63).cpu.interrupt = none ∧
    (∃ e, (harting [] 0).hartFetch { pc := 0x018000000000 } = .error e) ∧
    (∀ w ∈ [0x00100093, 0x0000A083, 0x0010A023, 0x34009073],
      ((harting (toBytes 4 w) 0).hartFetch ((harting (toBytes 4 w) 0).hartAt 63).cpu).toOption = some (w, 4)) ∧
    (∃ t, (harting [] 0).hartLoad 63 1 0 4 true = .next t) ∧ (∃ t, (harting [] 0).hartStore 63 0 4 0 = .next t) ∧
    (harting [] 0).hartsRun = true ∧ ((harting [] 0).hartAt 63).cpu.mode = .machine ∧
    0x34009073 % 128 = 0x73 ∧ 0x34009073 / 2 ^ 12 % 8 = 1 ∧ 0x34009073 / 2 ^ 20 % 4096 = 0x340 ∧
    0x00100093 % 128 = 0x13 ∧ 0x0000A083 % 128 = 0x03 ∧ 0x0010A023 % 128 = 0x23 :=
  ⟨by decide +kernel, by decide +kernel, error_of (by decide +kernel), by decide +kernel,
    ⟨_, next_of (by decide +kernel)⟩, ⟨_, next_of (by decide +kernel)⟩, by decide +kernel⟩

-- RISC-V's own encodings: C.JAL of RV32 links in x1, its shifts stay below 32, and it has no C.LD (R1, log 36).
theorem test_policy_short_forms : Rv.expand32 0x2001 = some 0x000000EF ∧ Rv.expand32 0x9001 = none ∧
    Rv.expand32 0x6000 = none ∧ Rv.expand32 0x1141 = some 0xFF010113 := by decide +kernel

/-- Supervisor 0 at an LW of x5 from PSTAT of its core 0, which holds a running instance. -/
def policing : State :=
  (tst .C).setPlot 0 { (tst .C).plotAt 0 with
    supUp := true, sup := { x := [(1, 0x80004008)], mem := [(0, 0x83), (1, 0xA2)] } }

-- R290: a load at a core port is the supervisor's read; a Reeve's of that address is none (R1, log 36).
theorem test_supervisor_load :
    (match policing.policyStep (.supervisor 0) with
      | .next s => (s.plotAt 0).sup.x.get 0 5 == 1 && (s.plotAt 0).sup.pc == 4 &&
        (s.coreAt 0).port.high == some (0x400C, 0)
      | _ => false) = true := by decide +kernel

-- The product of −2 and 3 in the upper half, and a branch back that is taken (R1, log 36).
theorem test_policy_step :
    let run (w : Nat) : Cpu32 :=
      match State.policyStep { (tst .C) with dies := [(7, { reeve := { up := true, cpu := {
        pc := 8, x := [(1, 0xFFFFFFFE), (2, 3)], mem := SMap.setList 0 [] 8 (toBytes 4 w) } } })] } (.reeve 7) with
      | .next s => (s.dieAt 7).reeve.cpu
      | _ => {}
    (run 0x022092B3).x.get 0 5 = 0xFFFFFFFF ∧ (run 0xFE20CCE3).pc = 0 := by decide +kernel

/-- Ndomon's certificate over a module's identity key, and a configuration record. -/
def ownCert : Cert := ⟨1, 2, 3, [], [], 0, 0⟩
@[inherit_doc ownCert] def record7 : CfgRecord := ⟨0, 7, 0, [], [], [4], [], 0, 0, [], 0, ownCert⟩

/-- A module with sessions, ports, an export and a Reeve on die 0. -/
def managed : State :=
  { cores := [], ports := [(15, { up := true, peer := 3, silentNs := 1000000 })],
    exports := [(5, some { valid := true, writable := true, base := 0x10000, length := 64, asids := none })],
    plots := [(63, { supUp := true }), (0, { budget := 12 })], dies := [(0, { reeve := { up := true } })],
    fw := { sessions := [⟨0, 5, ownCert⟩], nextSess := 1, powered := false, stage := 5,
            record := some record7, identity := some (5, ownCert) } }

theorem wit_ModuleResults :
    -- an image that is refused
    (∀ k ∈ imgKinds, imageOk managed.fw.record k ⟨[]⟩ = false) ∧
    (∀ k, k < 12 → (managed.coreAt (12 * 63 + k)).main = none ∧ (managed.coreAt (12 * 63 + k)).pre = none) ∧
    (managed.plotAt 63).supUp = true ∧ 3 ≤ managed.fw.stage ∧ managed.fw.stage = 5 ∧
    managed.fw.record = some record7 ∧ managed.fw.identity = some (5, ownCert) ∧
    (managed.fw.sessions.map (·.id)) = [0] ∧ managed.fw.powered = false ∧
    -- steps of bring-up that go on and that fail
    State.reset.bringStep.2 = true ∧ State.reset.fw.stage = 0 ∧ managed.bringStep.2 = false ∧
    (managed.dieAt 0).reeve.up = true ∧ (managed.ports.get {} 15).up = true ∧
    managed.exports.get none 5 = some { valid := true, writable := true, base := 0x10000, length := 64, asids := none } ∧
    (managed.peers.get {} 3).fenced = false ∧
    isOk (managed.devWrite (0x10000 + 0) (List.replicate 64 1)) = true ∧
    1000000 = (managed.ports.get {} 15).silentNs ∧ managed.moduleNo ≠ 1023 ∧
    exportEntOk 1023 { valid := true, writable := true, base := 0x1000, length := 64, asids := some [1, 2, 3, 4] } = true :=
  ⟨fun k _ => by cases k <;> rfl, by decide +kernel⟩

/-- An offer with one certificate of an anchor is accepted where its signatures verify (log 40). -/
theorem wit_session (c : Cert) (p : List Byte) (h : c = ⟨0, 4, 9, [], [], 0, 0⟩)
    (k : Config.ecdsaVerifies 4 [] [] = true) (m : Config.ecdsaVerifies 9 [] p = true) :
    offerOk record7 0 ⟨true, true, true, true, [c], p⟩ = true := by
  subst h
  simp [offerOk, chainOk, certOk, record7, k, m]

/-- The instruction is ready, answers a next state, and raises nothing. -/
def runs (s : State) (i : Instr) : Bool :=
  isReady s i && match exec i s with
    | .next t => t.inst.phase == s.inst.phase && t.inst.inhnd == s.inst.inhnd
    | _ => false

theorem runs_of {s : State} {i : Instr} (h : runs s i = true) :
    s.ready i s ∧ s.readyCmd i s ∧ ∃ t, exec i s = .next t ∧ s.unraised t := by
  simp only [runs, Bool.and_eq_true] at h
  obtain ⟨h1, h2⟩ := h
  cases e : exec i s with
  | next t =>
    simp only [e, Bool.and_eq_true, beq_iff_eq] at h2
    exact ⟨(ready_of h1).1, (ready_of h1).2, t, rfl, h2⟩
  | fault f => simp [e] at h2
  | refused r => simp [e] at h2

theorem all_run {l : List Instr} {s : State} (h : l.all (runs s) = true) :
    ∀ i ∈ l, s.ready i s ∧ s.readyCmd i s ∧ ∃ t, exec i s = .next t ∧ s.unraised t :=
  fun i hi => runs_of (List.all_eq_true.1 h i hi)

/-- The hypotheses of the frames. -/
abbrev Runs (s : State) (i : Instr) : Prop := s.ready i s ∧ s.readyCmd i s ∧ ∃ t, exec i s = .next t ∧ s.unraised t

/-- The hypotheses of a frame whose instruction may raise a cause. -/
abbrev Goes (s : State) (i : Instr) : Prop := s.ready i s ∧ ∃ t, exec i s = .next t

theorem wit_ScalarFrame :
    (∀ i ∈ [Instr.add h0 .i64 (.reg 0) (g 1) (.imm 31), .sub h0 .n8 .push (g 1) (g 2),
      .mul h0 .i16 (.reg 31) (.age 15) (g 2), .mulh h0 .i32 (.reg 1) (g 1) (g 1), .and h0 .n64 (.reg 1) (g 1) (g 1),
      .or h0 .i16 (.reg 1) (g 1) (g 1), .xor h0 .i8 (.reg 1) (g 1) (g 1), .andn h0 .n16 (.reg 1) (g 1) (g 1),
      .shl h0 .i64 (.reg 1) (g 1) (g 1), .shr h0 .i64 (.reg 1) (g 1) (g 1), .sra h0 .i64 (.reg 1) (g 1) (g 1),
      .rot h0 .n32 (.reg 1) (g 1) (g 1), .min h0 .i64 (.reg 1) (g 1) (g 1), .max h0 .i64 (.reg 1) (g 1) (g 1),
      .addx h0 7 .i64 (.reg 1) (g 1) (g 1), .mov h0 .i64 (.reg 1) (g 1), .clz h0 .i64 (.reg 1) (g 2),
      .popc h0 .i8 (.reg 1) (g 1), .ctz h0 .i64 (.reg 1) (g 2), .not h0 .i32 (.reg 1) (g 1), .neg h0 .n64 (.reg 1) (g 1),
      .cmp h0 .eq .i64 (.reg 1) (g 2) (g 2), .sel h0 .i64 (.reg 1) (g 1) (g 2) (g 2), .ext h0 .i64 (.reg 1) (g 1) (g 2) 63,
      .ins h0 .i64 (.reg 1) (g 1) (g 2) 63, .loop h0 (.reg 1) (.imm 2) (.imm 1),
      .ld h0 .die true true .b64 (.reg 1) (g 1) (g 2), .csrd h0 (.reg 1) 0x10A, .grq h0 (.reg 1) (g 2),
      .semrd h0 (.reg 1) 3, .wqstat h0 (.reg 1) (g 4), .winq h0 (.reg 1) 7 true, .cpyq h0 (.reg 1) (g 2),
      .nop h0, .br h0 .eq .none false (g 2) (g 2) (.imm 31), .jmp h0 (.imm 1), .jmpAbs h0 (.imm 8), .pref h0 (g 1) (g 2),
      .fence h0 .sys, .div h0 .i64 (.reg 1) (g 1) (g 2), .rem h0 .i64 (.reg 1) (g 1) (g 2), .call h0 (.reg 1) (.imm 1),
      .callAbs h0 (.reg 1) (.imm 8), .ret h0 (.imm 8), .tagset h0 (.reg 1) (g 4), .semset h0 (.reg 1) 3 (g 4),
      .sempost h0 3 (g 4), .semwait h0 3 (g 2), .semwait h0 3 (g 4), .waiti h0, .pause h0 (g 4),
      .nudgearm h0 (.reg 1) (.imm 1) (g 2), .winset h0 7 (g 2) (g 2) (g 2), .qdrop h0 .shuttle (.reg 1) (g 2),
      .qdrop h0 .M (.reg 1) (g 2), .grwr h0 (g 2) (g 3) (g 4)], Runs (tst .C) i) ∧
    Runs vec (.vmpop h0 .i8 (.reg 1) (.reg 1)) ∧ (tst .C).str.eq = [] ∧ dropStream .M = some .M ∧
    -- the last active stream's `RDV`, returns, and a system call
    Goes (tst .C) (.rdv h0) ∧ Goes handler (.retf h0) ∧ Goes renudged (.nudgeret h0) ∧ Goes (tst .C) (.svc h0 5) ∧
    Goes (tst .C) (.brk h0 5) ∧
    (∀ k ∈ [(tst .C, Instr.rdv h0), (handler, .retf h0), (renudged, .nudgeret h0)],
      (nextOf (exec k.2 k.1)).inst.phase.live = true) :=
  ⟨all_run (by decide +kernel), runs_of (by decide +kernel), by decide +kernel, by decide +kernel,
    ⟨(ready_of (by decide +kernel)).1, _, next_of (by decide +kernel)⟩,
    ⟨(ready_of (by decide +kernel)).1, _, next_of (by decide +kernel)⟩,
    ⟨(ready_of (by decide +kernel)).1, _, next_of (by decide +kernel)⟩,
    ⟨(ready_of (by decide +kernel)).1, _, next_of (by decide +kernel)⟩,
    ⟨(ready_of (by decide +kernel)).1, _, next_of (by decide +kernel)⟩, by decide +kernel⟩

theorem wit_VectorFrame :
    (∀ i ∈ vecInts 1 .i8 (v 1) (v 2) ++ vecFloats 1 .bf16 (v 1) (v 2), Runs vec i) ∧
    (∀ i ∈ [Instr.vshuf h0 0 .i32 (.reg 1) (v 2) (v 2) (v 2), .vslide h0 0 .i64 (.reg 1) (v 2) (v 2) (g 6),
      .vzip h0 0 .f16 true (.reg 1) (v 2) (v 2), .vunzip h0 0 .f16 false (.reg 1) (v 2) (v 2),
      .vsel h0 1 .i32 (.reg 1) (v 2) (v 2), .vunpack h0 1 .i32 true (.reg 1) (v 2), .vbcast h0 1 .n64 (.reg 1) (g 1),
      .viota h0 1 .i32 (.reg 1) (.reg 1), .vld h0 0 .i32 (.reg 1) (g 1) (g 2), .vlds h0 0 .i32 (.reg 1) (g 1) (g 4),
      .vgath h0 0 .i64 7 (.reg 1) (g 1) (v 2), .vcvt h0 0 .f32 .i8 none 3 (.reg 1) (v 2),
      .vcbx h0 0 .f32 0 0 3 (.reg 1) (v 2), .vpack h0 1 .n8 (.reg 1) (v 2) (v 2), .vldexp h0 1 .f32 (.reg 1) (v 2) (v 2),
      .vredsum h0 1 .i32 (.reg 1) (v 1) (v 2), .vredmax h0 1 .i32 (.reg 1) (v 1) (v 2),
      .vredmin h0 0 .n64 (.reg 1) (v 1) (v 2), .vscan h0 1 .i32 (.reg 1) (v 1) (v 2),
      .vldsh h0 0 .f32 false 6 none (.reg 1) (g 1), .vmskAnd h0 (.reg 0) (.reg 1) (.age 15), .vmskOr h0 .push (.reg 1) (.reg 1),
      .vmskXor h0 .push (.reg 1) (.reg 1), .vmskAndn h0 .push (.reg 1) (.reg 1), .vmskNot h0 (.reg 7) (.reg 1),
      .vcmp h0 1 .le .i32 (.reg 1) (v 1) (v 2), .vtopk h0 1 .i32 (.reg 1) (v 1) (.imm 1)], Runs vec i) ∧
    (∀ i ∈ [Instr.fld h0 0 (g 1) (g 2), .fset h0 (.base 2) 0 (g 1), .fpatch h0 (.bound 0) 62 (.imm 7),
      .fpatchMem h0 (.bound 0) 62 (g 1) (g 2)], Runs (fur .C id) i) ∧
    vec.self.pre = none ∧ (fur .C id).self.pre = none ∧ unitsOf (.vadd h0 1 .i8 (.reg 1) (v 1) (v 2)) = [] ∧
    vec.str.eq = [] :=
  ⟨all_run (by decide +kernel), all_run (by decide +kernel), all_run (by decide +kernel), by decide +kernel⟩

/-- The step goes on and raises nothing. -/
def goes (s : State) : Out → Bool
  | .next t => t.inst.phase == s.inst.phase && t.inst.inhnd == s.inst.inhnd
  | _ => false

theorem goes_of {s : State} {o : Out} (h : goes s o = true) : ∃ t, o = .next t ∧ s.unraised t := by
  cases o with
  | next t => exact ⟨t, rfl, by simpa [goes, State.unraised] using h⟩
  | fault f => cases h
  | refused r => cases h

/-- The same with no granule remapped. -/
def unmoved : State :=
  { tst .C with cores := (tst .C).cores.map fun k => (k.1, { k.2 with remapCnt := 0 }) }

theorem wit_StoreFrame :
    (∀ i ∈ [Instr.st h0 .stream false .b64 (g 1) (g 2) (g 1), .st h0 .mod true .b8 (g 3) (g 2) (g 1),
      .stu h0 .b64 (g 1) (g 2) (g 1), .fst h0 (g 1) (g 2) 63, .ldl h0 true .b64 (.reg 1) (g 1) (g 2),
      .tbarm h0 true true (.reg 1) (g 1) (g 4) (g 2), .tbwait h0 (.reg 1) (g 1) (.imm 1), .tbarrive h0 (g 1) (g 2) (g 2),
      .remapset h0 (g 2) (g 3) (g 2)], Runs (tst .C) i) ∧
    Runs unmoved (.fst h0 (g 1) (g 2) 63) ∧ (∃ l, unmoved.at_ .write (unmoved.addr h0 (g 1) (g 2)) 128 = .ok l) ∧
    (∀ k ∈ unmoved.cores, k.2.remapCnt = 0) ∧
    (∀ i ∈ amos (g 1) ++ amos (g 3), Runs (tst .C) i) ∧
    (∀ i ∈ [Instr.st h0 .mod true .b8 (g 3) (g 2) (g 1), .stu h0 .b64 (g 1) (g 2) (g 1), .fst h0 (g 1) (g 2) 63],
      Runs (tst .L) i) ∧
    (∀ i ∈ [Instr.vst h0 0 .i32 (g 1) (g 2) (v 1), .vsts h0 0 .i32 (g 1) (g 4) (v 1),
      .vscat h0 0 .i64 7 (g 1) (v 2) (v 1), .vstsh h0 0 .f32 1 0 false 6 0 false (g 1) (v 2)], Runs vec i) ∧
    (∀ i ∈ [Instr.wqpop h0 false (.reg 1) (g 9) (g 3), .wqctlRead h0 (.reg 1) (g 4) (g 3)], Runs (queues .C) i) ∧
    (∃ n, (queues .C).queueOpd h0 (g 9) = .ok n) ∧
    (∃ l, (tst .C).scalarAt .write ((tst .C).addr h0 (g 1) (g 2)) 8 = .ok l) ∧
    (∃ l, (tst .C).scalarAt .write ((tst .C).addr h0 (g 3) (g 2)) 1 = .ok l) ∧
    (∃ l, (tst .C).at_ .write ((tst .C).addr h0 (g 1) (g 2)) 128 = .ok l) ∧
    (∃ l, (tst .C).at_ .write 0x10000 64 = .ok l) ∧ (tst .C).inst.saved = [] ∧
    place ((tst .C).val h0 .i64 (g 1)).toNat = .local_ 0 ∧ (tst .C).self.pre = none ∧
    -- the second of two held writes is performed
    (∃ r, performAt 1 ((busy .L 2).on 0 .L).str.eq [] true = some r) ∧
    (∃ t, exec (.storeWritePerformed 0 .L 1) (busy .L 2) = .next t ∧ ((busy .L 2).on 0 .L).unraised t) :=
  ⟨all_run (by decide +kernel),
    all_run (l := [.fst h0 (g 1) (g 2) 63]) (by decide +kernel) _ (.head _), ok_of (by decide +kernel),
    List.forall_mem_singleton.2 rfl, all_run (by decide +kernel), all_run (by decide +kernel), all_run (by decide +kernel),
    all_run (by decide +kernel), ok_of (by decide +kernel), ok_of (by decide +kernel), ok_of (h := by decide +kernel),
    ok_of (h := by decide +kernel), ok_of (h := by decide +kernel), by decide +kernel, by decide +kernel, by decide +kernel,
    some_of (by decide +kernel),
    goes_of (by decide +kernel)⟩


/-- Bytes written raise nothing, nor does completing without a post. -/
theorem pokes_unraised (s : State) (h : s.self.act.isSome = true) (w : Option Writer) (l : List (Loc × Byte))
    (pc : Word) : s.unraised ((s.pokes w l).complete pc []) := by
  have k := s.stops_pokes w l h
  have e : s.unraised (s.pokes w l) := by
    have := k.2.2.2
    unfold Inst.stoppedAs at this
    exact ⟨by rw [← this], by rw [← this]⟩
  have f : (s.pokes w l).unraised ((s.pokes w l).complete pc []) := by
    simp [State.complete, State.unraised, State.advance, State.setStr, Inst.setStr]
  exact ⟨f.1.trans e.1, f.2.trans e.2⟩

theorem accld_runs {h : Head} {a b c : Src} {s : State} {l : List Loc} (hm : s.stream ≠ .M)
    (hr : s.ready (.accld h a b c) s) (hl : s.imageOf .read (s.val h .n64 a) (.ofNat 64 (s.addr h b c)) = .ok l)
    (hf : s.tileFree (s.val h .n64 a) l [] = true) :
    ∃ w, exec (.accld h a b c) s = s.completes (.accld h a b c) (s.pokes (some .loom) w) := by
  have : exec (.accld h a b c) s = execAccld h a b c s := rfl
  rw [this, execAccld, if_neg hm, issue_ready _ hr]
  simp only [hl, hf, if_true, Res.try_]
  exact ⟨_, rfl⟩

theorem accst_runs {h : Head} {a b c : Src} {s : State} {l : List Loc} (hm : s.stream ≠ .M)
    (hr : s.ready (.accst h a b c) s) (hl : s.imageOf .write (s.val h .n64 a) (.ofNat 64 (s.addr h b c)) = .ok l)
    (hf : s.tileFree (s.val h .n64 a) l l = true) (hd : s.inst.tileSound (s.val h .n64 a).toNat = .ok ()) :
    ∃ w, exec (.accst h a b c) s = s.completes (.accst h a b c) (s.pokes (some s.me) w) := by
  have : exec (.accst h a b c) s = execAccst h a b c s := rfl
  rw [this, execAccst, if_neg hm, issue_ready _ hr]
  simp only [hl, hf, hd, Bool.not_true, Bool.false_eq_true, if_false, Res.try_]
  exact ⟨_, rfl⟩

theorem ok_match {α : Type} {x : T α} {f : α → Bool} (h : (match x with | .ok l => f l | .error _ => false) = true) :
    ∃ l, x = .ok l ∧ f l = true := by
  cases x with
  | ok l => exact ⟨l, rfl, h⟩
  | error e => cases h

theorem image_at {s : State} {acc : Acc} {t a : Word} {l : List Loc} (h : s.imageOf acc t a = .ok l) :
    s.at_ acc a.toNat 4096 = .ok l := by
  simp only [State.imageOf, bind, Except.bind] at h
  split at h
  · cases h
  · split at h
    · cases h
    · exact h

theorem wit_StoreFrameTile :
    Runs (tst .L) (.accld h0 (g 2) (g 1) (g 2)) ∧ Runs (tst .L) (.accst h0 (g 2) (g 1) (g 2)) ∧
    (∃ l, (tst .L).at_ .write (BitVec.ofNat 64 ((tst .L).addr h0 (g 1) (g 2))).toNat 4096 = .ok l) ∧
    (tst .L).stream ≠ .M := by
  have ha : (tst .L).self.act.isSome = true := by decide +kernel
  have hm : (tst .L).stream ≠ .M := by decide +kernel
  have r1 := ready_of (show isReady (tst .L) (.accld h0 (g 2) (g 1) (g 2)) = true by decide +kernel)
  have r2 := ready_of (show isReady (tst .L) (.accst h0 (g 2) (g 1) (g 2)) = true by decide +kernel)
  obtain ⟨l, hl, hf⟩ := ok_match (x := (tst .L).imageOf .read ((tst .L).val h0 .n64 (g 2))
    (.ofNat 64 ((tst .L).addr h0 (g 1) (g 2)))) (f := fun l => (tst .L).tileFree ((tst .L).val h0 .n64 (g 2)) l [])
    (by decide +kernel)
  obtain ⟨k, hk, hx⟩ := ok_match (x := (tst .L).imageOf .write ((tst .L).val h0 .n64 (g 2))
    (.ofNat 64 ((tst .L).addr h0 (g 1) (g 2)))) (f := fun l => (tst .L).tileFree ((tst .L).val h0 .n64 (g 2)) l l)
    (by decide +kernel)
  have hd : (tst .L).inst.tileSound ((tst .L).val h0 .n64 (g 2)).toNat = .ok () := ok_eq (by decide +kernel)
  generalize tst .L = s at *
  obtain ⟨b, e1⟩ := accld_runs hm r1.1 hl hf
  obtain ⟨b', e2⟩ := accst_runs hm r2.1 hk hx hd
  exact ⟨⟨r1.1, r1.2, _, e1, pokes_unraised s ha _ _ _⟩, ⟨r2.1, r2.2, _, e2, pokes_unraised s ha _ _ _⟩,
    ⟨k, image_at hk⟩, hm⟩

theorem wit_CommandFrame :
    (∀ i ∈ [Instr.fgo h0 61, .fgoUnf h0 61 (g 2), .fgoDec h0 61 (.imm 1), .cpy h0 none 61 (g 2),
      .cpyUnf h0 (some 2) 61 (g 2) (g 2), .cpyDec h0 (some 1) 61 (g 2) (g 11), .cpyRed h0 (some 1) 61 (g 2),
      .cpyOred h0 (some 2) 61 (g 1) (g 2)], Runs (queued 15 63 31) i) ∧
    (∀ i ∈ [Instr.weave h0 false false .f16f16 63 (g 2) false false, .scacc h0 (g 2) (g 2), .lmodeWrap h0, .lmodeSat h0,
      .lsync h0, .accclr h0 (g 2) (g 4), .accld h0 (g 2) (g 1) (g 2), .accst h0 (g 2) (g 1) (g 2),
      .accaddRow h0 true (g 2) (g 1) (g 2), .accaddCol h0 false (g 2) (g 1) (g 2),
      .drain h0 .sh4 .sat true (g 1) (g 2) (g 1), .drain h0 .i8 .nan false (g 1) (g 2) (g 1),
      .mdcopy h0 (g 2) (g 1) (g 2), .cbld h0 7 (g 1) (g 2), .cbq h0 (.reg 1) 7, .reedld h0 3 (g 1) (g 2),
      .reedselOn h0 3, .reedselOff h0], Runs (looming 31) i) ∧
    (queued 15 63 31).self.pre = none ∧ (looming 31).self.pre = none ∧ (looming 31).stream = .M :=
  ⟨all_run (by decide +kernel), all_run (by decide +kernel), by decide +kernel⟩

theorem wit_HandlerAndFaultEntry :
    (tst .L).self.act.isSome = true ∧ handler.self.act.isSome = true ∧ handler.inst.inhnd = true ∧
    -- the job's handler is there to take an SVC; it is not where its vector is 0
    (let s := tstI .C fun i => { i with trapvec := 0x20000 }
     s.self.act.isSome = true ∧ s.inst.trapvec ≠ 0 ∧ s.inst.inhnd = false ∧ s.inst.nmask = false ∧
       ∀ y ∈ [Stream.C, .L, .M, .V, .S], (s.inst.streams.get y).stores = 0 ∧ (s.inst.streams.get y).pause = none ∧
         (s.inst.streams.get y).eq = []) ∧
    (tst .L).inst.trapvec = 0 := by decide +kernel

/-- The job without privilege, with the first gigabyte mapped by an entry of its own: `bits` are the low
twelve bits of the entry. -/
def mapped (bits : Nat) (priv : Bool) : State :=
  let s := tstI .C fun i => { i with launch := { i.launch with priv := priv } }
  { s with mem := [(0x1000, 0x01), (0x1001, 0x20), (0x2000, 0x01), (0x2001, 0x30)] ++
      (if bits % 256 = 0 then [] else [(0x3000, .ofNat 8 bits)]) }

/-- The same with an entry that maps it to the end of the HBM. -/
def outside : State := { mapped 0x3B true with mem := (mapped 0x3B true).mem ++ [(0x3004, 0x80), (0x3005, 0x01)] }

theorem wit_ScalarAccessFaults :
    -- misaligned; neither canonical nor local; beyond the scratchpad; fetched from it; an armed tbar
    (0x10001 % 2 ^ 3 ≠ 0 ∧ (0x8000000000000000 : Nat) % 2 ^ 3 = 0 ∧ place 0x8000000000000000 = .none ∧
      place 0x4000000000180000 = .none ∧ place 0x400000000017FFF8 = .local_ 0x17FFF8) ∧
    ((tst .C).inst.spadLen ≤ 0x180000 ∧ place 0x4000000000000000 = .local_ 0) ∧
    (let s := tstI .C fun i => { i with hdr := i.hdr &&& .ofNat 512 (2 ^ 352 - 1) ||| 1 <<< 352 }
     s.inst.spadLen = 0x1000 ∧ place 0x4000000000001000 = .local_ 0x1000) ∧
    (let s := tstI .C fun i => { i with tbars := [0] }
     s.inst.armedAt (.spad 8) = true ∧ place 0x4000000000000008 = .local_ 8 ∧ 8 + 8 ≤ s.inst.spadLen) ∧
    -- no translation; no write; no fetch; not a user's
    (place 0x10000 = .global 0x10000 ∧ ((mapped 0 true).xlate 0 (mapped 0 true).inst.launch 0x10000).isNone = true) ∧
    (∃ e, (mapped 0x2B true).xlate 0 (mapped 0x2B true).inst.launch 0x10000 = some e ∧ e.w = false) ∧
    (∃ e, (mapped 0x1B true).xlate 0 (mapped 0x1B true).inst.launch 0x10000 = some e ∧ e.x = false) ∧
    (∃ e, (mapped 0x33 false).xlate 0 (mapped 0x33 false).inst.launch 0x10000 = some e ∧ e.usr = false) ∧
    (mapped 0x33 false).inst.launch.priv = false ∧
    -- a leaf that maps outside the HBM
    (∃ e, outside.xlate 0 outside.inst.launch 0x10000 = some e ∧
      0x018000000000 ≤ e.pa + (0x10000 % 2 ^ 57 - e.va)) ∧
    -- an instruction that is ready there
    (∀ i ∈ [Instr.ld h0 .stream false true .b64 (.reg 1) (g 3) (g 2), .st h0 .stream false .b64 (g 3) (g 2) (g 1)] ++
      amos (g 3), (mapped 0 true).ready i (mapped 0 true)) ∧
    (∃ e, (mapped 0 true).scalarAt .read ((mapped 0 true).addr h0 (g 3) (g 2)) 8 = .error e) ∧
    (∃ e, (mapped 0 true).scalarAt .write ((mapped 0 true).val h0 .i64 (g 3)).toNat 8 = .error e) ∧
    (∃ e, (mapped 0 true).scalarAt .write ((mapped 0 true).addr h0 (g 3) (g 2)) 8 = .error e) ∧
    -- the entries of the walk: of a leaf, of a table, and with a reserved bit
    ((mapped 0x3B true).rdWord 0x3000 = 0x3B ∧ (mapped 0x0F true).rdWord 0x3000 = 0x0F ∧
      (mapped 0x40 true).rdWord 0x3000 = 0x40 ∧ (mapped 0 true).rdWord 0x3000 = 0 ∧ (tst .C).rdWord 0x1000 = 0x2001) := by
  have x {o : Option TlbEnt} {p : TlbEnt → Bool} (h : (match o with | some e => p e | none => false) = true) :
      ∃ e, o = some e ∧ p e = true := by
    cases o with
    | some e => exact ⟨e, rfl, h⟩
    | none => cases h
  refine ⟨by decide, by decide +kernel, by decide +kernel, by decide +kernel, by decide +kernel, ?_, ?_, ?_,
    by decide +kernel, ?_, all_ready (by decide +kernel), error_of (by decide +kernel), error_of (by decide +kernel),
    error_of (by decide +kernel), by decide +kernel⟩
  · obtain ⟨e, h, k⟩ := x (p := fun e => !e.w) (o := (mapped 0x2B true).xlate 0 (mapped 0x2B true).inst.launch 0x10000)
      (by decide +kernel)
    exact ⟨e, h, by simpa using k⟩
  · obtain ⟨e, h, k⟩ := x (p := fun e => !e.x) (o := (mapped 0x1B true).xlate 0 (mapped 0x1B true).inst.launch 0x10000)
      (by decide +kernel)
    exact ⟨e, h, by simpa using k⟩
  · obtain ⟨e, h, k⟩ := x (p := fun e => !e.usr)
      (o := (mapped 0x33 false).xlate 0 (mapped 0x33 false).inst.launch 0x10000) (by decide +kernel)
    exact ⟨e, h, by simpa using k⟩
  · obtain ⟨e, h, k⟩ := x (p := fun e => decide (0x018000000000 ≤ e.pa + (0x10000 % 2 ^ 57 - e.va)))
      (o := outside.xlate 0 outside.inst.launch 0x10000) (by decide +kernel)
    exact ⟨e, h, of_decide_eq_true k⟩

/-- A word of an instruction, as R37 lays out its fields. -/
def hw (wsem amt : Nat) : Head := { h0 with wsem := .ofNat 32 wsem, wamt := .ofNat 8 amt }

/-- The instruction has encoded fields and its opcode lies in a range. -/
def opIn (i : Instr) (lo hi : Nat) : Bool :=
  match i.fields with
  | some f => decide (lo ≤ f.op.toNat ∧ f.op.toNat < hi)
  | none => false

/-- The job with eight registers of C, two of `%v` and two masks. -/
def small (st : Stream) : State :=
  tstI st fun i => { i with hdr := .ofNat 512 (8 * 2 ^ 256 + 2 * 2 ^ 296 + 2 * 2 ^ 304 + 2 ^ 352 + 31 * 2 ^ 464) }

theorem wit_DecodeFaults :
    -- a stopped instance; each fault in the order of the rule, with its condition and none of an earlier one
    ((tstI .C fun i => { i with phase := .stopped false }).issues = false ∧ (tst .C).issues = true) ∧
    ((tst .C).decodeFault (.retf h0) = some .illegalOp ∧ opIn (.retf h0) 0x46 0x47 ∧ (tst .C).inst.inhnd = false) ∧
    ((tst .C).inst.nmask = false ∧ opIn (.nudgeret h0) 0x48 0x49 ∧ handler.inst.inhnd = true ∧
      opIn (.waiti h0) 0x49 0x4A ∧ opIn (.rdv h0) 0x54 0x55) ∧
    (opIn (.nudgeret h0) 0x48 0x49 ∧ (tst .L).stream = .L ∧ opIn (.vadd h0 1 .i32 (.reg 1) (v 2) (v 3)) 0x70 0xC0 ∧
      opIn (.winset h0 0 (g 2) (g 2) (g 2)) 0xC5 0xE0 ∧ (tst .M).stream = .M ∧ opIn (.lsync h0) 0xE0 0xF3) ∧
    ((mapped 0x3B false).inst.launch.priv = false ∧ opIn (.grq h0 (.reg 1) (g 2)) 0x4F 0x50 ∧
      opIn (.csrd h0 (.reg 1) 0x100) 0x40 0x44) ∧
    ((small .C).inst.gcnt .C = 8 ∧ (small .V).inst.vcnt = 2 ∧ (small .V).inst.mcnt = 2 ∧
      (Instr.add h0 .i64 (.reg 8) (g 1) (g 1)).uses.any ((small .C).inst.beyond .C) = true ∧
      (Instr.vadd h0 1 .i8 (.reg 0) (v 1) (v 2)).uses.any ((small .V).inst.beyond .V) = true ∧
      (Instr.vadd h0 2 .i8 (.reg 0) (v 1) (v 1)).uses.any ((small .V).inst.beyond .V) = true ∧
      (Instr.add h0 .i64 (.reg 7) (g 1) (g 1)).uses.any ((small .C).inst.beyond .C) = false ∧
      opIn (.add h0 .i64 (.reg 7) (g 1) (g 1)) 1 2) := by decide +kernel

theorem wit_WaitAndPost :
    -- too low a count; an earlier waiter; a grant that takes the whole count
    ((tst .C).issues = true ∧ (tst .C).decodeFault (.nop (hw 3 7)) = none ∧ (tst .C).str.got = [] ∧
      (tst .C).inst.semOf 3 < 7 ∧ opIn (.nop (hw 3 7)) 0 1 ∧ ∀ n : Fin 32, (tst .C).inst.badAt (.sem n) = none) ∧
    (let s := tstI .C fun i => { i with sem := [(3, 7)], waits := [(Waiter.queue .L, 3, 1)] }
     s.issues = true ∧ s.decodeFault (.nop (hw 3 7)) = none ∧ s.str.got = [] ∧ (s.inst.waits.any (·.2.1 == 3)) = true) ∧
    (let s := tstI .C fun i => { i with sem := [(3, 7)] }
     s.issues = true ∧ s.decodeFault (.nop (hw 3 7)) = none ∧ s.str.got = [] ∧ s.inst.waits = [] ∧ s.inst.semOf 3 = 7) ∧
    -- posts: of one below the top, and at it
    ((counted .C).self.act.isSome = true ∧ (counted .C).str.eq = [] ∧ (counted .C).inst.semOf 31 = 65535 ∧
      (counted .C).inst.semOf 0 + 65535 ≤ 65535 ∧ (counted .C).inst.phase.live = true ∧
      ∀ n : Fin 32, (counted .C).inst.badAt (.sem n) = none) := by decide +kernel

theorem wit_ResultRegisters : (tst .V).self.act.isSome = true ∧ handler.self.act.isSome = true ∧ handler.stream = .C ∧
    handler.inst.inhnd = true ∧ nudged.self.act.isSome = true ∧ nudged.inst.nmask = true ∧ Stream.L ≠ handler.stream ∧
    (24 : Fin 32) ≤ 31 := by decide +kernel

theorem wit_LoopRule :
    (tst .C).ready (.loop h0 (.reg 4) (g 4) (.imm 31)) (tst .C) ∧ 1 < ((tst .C).val h0 .n64 (g 4)).toNat ∧
    -- the first of 64 and, on a register that holds 1, the last
    (tst .C).inst.g .C 4 = .ofNat 64 (64 - 0) ∧
    (let s := tstI .C fun i => i.modStr .C fun x => { x with g := [(4, 1)] }
     isReady s (.loop h0 (.reg 4) (g 4) (.imm 31)) = true ∧ ((s.val h0 .n64 (g 4)).toNat ≤ 1) ∧
       s.inst.g .C 4 = .ofNat 64 (64 - 63)) ∧
    (Instr.loop h0 (.reg 4) (g 4) (.imm 31)).wf = true ∧
    (0x24000000_04040100 : Word).toNat / 2 ^ 56 = 0x24 ∧ (0x24000000_04040100 : Word).toNat / 256 % 256 ≠ 0 := by
  exact ⟨(ready_of (by decide +kernel)).1, by decide +kernel⟩

theorem wit_NudgeReturnRule :
    (((0x4800000000000000 : Word).toNat / 2 ^ 56 = 0x48 ∧ isOk (decode 0x4800000000000000 0) = true) ∧
      (0x4801000000000000 : Word).toNat / 2 ^ 48 % 256 ≠ 0 ∧ (0x4800000000000001 : Word).toNat % 2 ^ 32 ≠ 0) ∧
    ((tst .L).issues = true ∧ (tst .L).stream ≠ .C ∧ (tst .C).issues = true ∧ (tst .C).inst.nmask = false) ∧
    nudged.ready (.nudgeret h0) nudged ∧ (nudged.inst.inhnd = false ∧ nudged.str.eq = [] ∧
      nudged.inst.badAt (.sem 0) = none) ∧
    exec (.nudgeret h0) renudged = .next (nextOf (exec (.nudgeret h0) renudged)) ∧
    (nextOf (exec (.nudgeret h0) renudged)).self.act.isSome = true ∧
    (nextOf (exec (.nudgeret h0) renudged)).inst.nudgeDue = true :=
  ⟨by decide +kernel, by decide +kernel, (ready_of (by decide +kernel)).1, by decide +kernel,
    next_of (by decide +kernel), by decide +kernel⟩

theorem wit_GranaryWindowRule :
    (∀ i ∈ [Instr.grq h0 (.reg 1) (g 2), .grq h0 (.reg 1) (g 4)], (tst .C).ready i (tst .C)) ∧
    ((tst .C).val h0 .n64 (g 2)).toNat < 64 ∧ ((tst .C).val h0 .n64 (g 4)).toNat = 64 ∧
    ({ tst .C with mtime := 1000018600 } : State).mtime = 1000018600 ∧
    (0x4F00000001020100 : Word).toNat / 2 ^ 48 = 0x4F00 ∧ (0x4F00000001020100 : Word).toNat % 2 ^ 16 ≠ 0 :=
  ⟨all_ready (by decide +kernel), by decide +kernel⟩

theorem wit_PrivilegedInstructionRule :
    (mapped 0x3B false).issues = true ∧ (mapped 0x3B false).inst.launch.priv = false ∧
    (small .C).inst.launch.priv = true ∧ (small .C).inst.gcnt .C = 8 := by decide +kernel

/-- The module after reset with a program of one instruction placed. -/
def placed (w p : Nat) : State := State.reset.withFetchWord 128 (w + 2 ^ 64 * p)

/-- The bytes at an address are those of a word, in HBM. -/
theorem bytes_at {e : State} {a x : Word} {n p : Nat}
    (h : ((List.range n).all fun k =>
      (e.locByte e.core e.inst .fetch ((a.toNat + k) % 2 ^ 64)).toOption == some (Loc.hbm (p + k))) = true)
    (hx : x = .ofNat 64 (ofBytes (((List.range n).map fun k => Loc.hbm (p + k)).map e.codeByte))) :
    ∃ l : List Loc, l.length = n ∧
      (∀ k, k < n → e.locByte e.core e.inst .fetch ((a.toNat + k) % 2 ^ 64) = .ok (l.getD k (.hbm 0))) ∧
      x = .ofNat 64 (ofBytes (l.map e.codeByte)) := by
  refine ⟨_, by simp, fun k hk => ?_, hx⟩
  have := List.all_eq_true.1 h k (List.mem_range.2 hk)
  have e := ok_eq (beq_iff_eq.1 this)
  rw [e]
  congr 1
  simp [List.getD, hk]

/-- The same without privilege. -/
def unprivileged (w p : Nat) : State :=
  let s := (placed w p).on 0 .C
  s.setInst { s.inst with launch := { s.inst.launch with priv := false } }

/-- The state in which C of core 0 fetches: what the fetch looks up is in the TLB. -/
def fetching (s : State) : State :=
  let e := State.on { s with agenda := [] } 0 .C
  e.lookUps 0 e.fetchRuns

theorem wit_StepRunsDecoded :
    (∀ s ∈ [placed 0x0100000005010200 0, placed 0x307A00000402C000 0x10, unprivileged 0x4F00000001C00000 0x10],
      let e := fetching s
      s.agenda = [.stream 0 .C] ∧ (State.on { s with agenda := [] } 0 .C).issues = true ∧ e.inst.nudgeDue = false ∧ e.str.pc = 0x10000 ∧
        (0x10000 : Word).toNat % 8 = 0) ∧
    (∀ k ∈ [(placed 0x0100000005010200 0, 0x0100000005010200, 0), (placed 0x307A00000402C000 0x10, 0x307A00000402C000, 0x10),
        (unprivileged 0x4F00000001C00000 0x10, 0x4F00000001C00000, 0x10)],
      let e := fetching k.1
      (∃ l : List Loc, l.length = 8 ∧ (∀ j, j < 8 →
          e.locByte e.core e.inst .fetch (((0x10000 : Word).toNat + j) % 2 ^ 64) = .ok (l.getD j (.hbm 0))) ∧
        k.2.1 = BitVec.ofNat 64 (ofBytes (l.map e.codeByte))) ∧
      ∃ l : List Loc, l.length = 4 ∧ (∀ j, j < 4 →
          e.locByte e.core e.inst .fetch (((0x10000 + 8 : Word).toNat + j) % 2 ^ 64) = .ok (l.getD j (.hbm 0))) ∧
        k.2.2 = BitVec.ofNat 64 (ofBytes (l.map e.codeByte))) ∧
    -- without a literal; with one; with one and a decode fault
    decode 0x0100000005010200 0 = .ok (.add h0 .i64 (.reg 5) (g 1) (g 2)) ∧
    decode 0x307A00000402C000 0 = .ok (.ld { h0 with lit := .l32 0 } .die true true .b32 (.reg 4) (g 2) .lit) ∧
    decode 0x307A00000402C000 0x10 = .ok (.ld { h0 with lit := .l32 0x10 } .die true true .b32 (.reg 4) (g 2) .lit) ∧
    (fetching (placed 0x307A00000402C000 0x10)).decodeFault
      (.ld { h0 with lit := .l32 0 } .die true true .b32 (.reg 4) (g 2) .lit) = none ∧
    decode 0x4F00000001C00000 0 = .ok (.grq { h0 with lit := .l32 0 } (.reg 1) .lit) ∧
    (fetching (unprivileged 0x4F00000001C00000 0x10)).decodeFault (.grq { h0 with lit := .l32 0 } (.reg 1) .lit) ≠ none ∧
    -- a block beside those of an instruction cache
    (let e := (((placed 0x0100000005010200 0).codeFill 0 0x10004).on 0 .C)
     e.self.icache.map (·.1) = [0x400] ∧ 0x400 ≠ 0x10040 / 64) := by
  refine ⟨by decide +kernel, fun k hk => ?_, ok_eq (by decide +kernel), ok_eq (by decide +kernel), ok_eq (by decide +kernel),
    by decide +kernel, ok_eq (by decide +kernel), by decide +kernel, by decide +kernel⟩
  simp only [List.mem_cons, List.not_mem_nil, or_false] at hk
  rcases hk with rfl | rfl | rfl <;>
    exact ⟨bytes_at (p := 0x10000) (by decide +kernel) (by decide +kernel),
      bytes_at (p := 0x10008) (by decide +kernel) (by decide +kernel)⟩

-- R302, R90: an uncorrectable error is framed for the supervisor; a `GRWR` repairs a granary unit.
theorem test_ecc :
    (let s := ((placed 0 0).coreError 0 (.g .C 1) 0x40).on 0 .C
     let c := (nextOf (execMov h0 .i64 (.reg 2) (g 1) s)).coreAt 0
     (s.coreAt 0).fcause = 0 ∧ c.fcause = 0x11 ∧ c.faddr = 0x40 ∧ (c.act.map (·.phase)) = some (.stopped false)) ∧
    (let s := ((placed 0 0).granaryError 0 3).on 0 .C
     s.die.granBad = [3] ∧ (s.granWrite 64 (List.replicate 128 0)).die.granBad = [3] ∧
       (s.granWrite 128 (List.replicate 128 0)).die.granBad = []) := by
  decide +kernel

-- R30: a fetch may see a block as it was before a store; R97: a walk may start at an old table.
theorem test_stale_code :
    (((((placed 0x0100000005010200 0).codeFill 0 0x10004).wr 0x10000 [1]).on 0 .C).fetch8 0x10000).toOption =
      some 0x0100000005010200 ∧
    ((((placed 0x0100000005010200 0).wr 0x10000 [1]).on 0 .C).fetch8 0x10000).toOption = some 0x0100000005010201 := by
  decide +kernel

theorem test_walk_cache :
    (let s := ((placed 0 0).walkFill 0 0x10000 2).wr 0x1000 [0]
     ((s.dieAt 0).walks = [⟨0, 0, 2 ^ 39, 2, 0x3000⟩] ∧
       (s.xlate 0 ((s.coreAt 0).act.getD {}).launch 0x10000).isSome = true ∧
       ((s.walkDrop 0 0).xlate 0 ((s.coreAt 0).act.getD {}).launch 0x10000).isNone = true)) := by
  decide +kernel

/-- A wait on semaphore `ws` of `wa` and a post to `ps` of `pa`. -/
def hwp (ws wa ps pa : Nat) : Head := ⟨.ofNat 32 ws, .ofNat 8 wa, .ofNat 32 ps, .ofNat 8 pa, .none⟩

/-- What a word decodes to, with no literal bits behind it. -/
def dec (w : Word) : Option Instr := (decode w 0).toOption

-- The words R37 to R47 and the examples of each chapter give, field by field.
theorem test_decode_scalar :
    dec 0x0100112903010000 = some (.add (hwp 2 1 5 1) .i64 (.reg 3) (g 1) (g 0)) ∧
    (decode 0x010011290301C000 1000).toOption =
      some (.add { hwp 2 1 5 1 with lit := .l32 1000 } .i64 (.reg 3) (g 1) .lit) ∧
    (decode 0x0100003A0402C100 0x100000000).toOption =
      some (.add { hwp 0 0 7 2 with lit := .l64 0x100000000 } .i64 (.reg 4) (g 2) .lit) ∧
    dec 0x020100000540F000 = some (.sub h0 .i32 (.reg 5) (.age 0) (.imm 0x10)) ∧
    dec 0x0300000040010200 = some (.mul h0 .i64 .push (g 1) (g 2)) ∧
    dec 0x0F810000024F0000 = some (.not h0 .i32 (.reg 2) (.age 15)) ∧
    dec 0x1268000003040500 = some (.cmp h0 .ge .n64 (.reg 3) (g 4) (g 5)) ∧
    dec 0x140800000102033F = some (.ext h0 .n64 (.reg 1) (g 2) (g 3) 63) ∧
    dec 0x16E0000001020300 = some (.addx h0 7 .i64 (.reg 1) (g 2) (g 3)) := by decide +kernel

theorem test_decode_control :
    dec 0x20480000000102FD = some (.br h0 .lt .taken false (g 1) (g 2) (.imm 0x1D)) ∧
    dec 0x2101000000050000 = some (.jmpAbs h0 (g 5)) ∧ dec 0x22000000010000FD = some (.call h0 (.reg 1) (.imm 0x1D)) ∧
    dec 0x2300000000010000 = some (.ret h0 (g 1)) ∧ dec 0x24000000040400FE = some (.loop h0 (.reg 4) (g 4) (.imm 0x1E)) := by
  decide +kernel

theorem test_decode_memory :
    dec 0x309300000502E000 = some (.ld h0 .mod true false .b64 (.reg 5) (g 2) (.imm 0)) ∧
    dec 0x319300000007E008 = some (.st h0 .mod true .b64 (g 7) (.imm 0) (g 8)) ∧
    dec 0x349B000001020304 = some (.amoCas h0 true .die (.reg 1) (g 2) (g 3) (g 4)) := by decide +kernel

theorem test_decode_system :
    dec 0x410000000102010A = some (.cswr h0 (.reg 1) 0x10A (g 2)) ∧ dec 0x440000000000007F = some (.svc h0 0x7F) ∧
    dec 0x4C00000000000011 = some (.fenceX h0 0x11) ∧ dec 0x4C00000000000004 = some (.fenceX h0 4) ∧
    dec 0x4F01000000010203 = some (.remapset h0 (g 1) (g 2) (g 3)) := by decide +kernel

theorem test_decode_sync :
    dec 0x500000000002E100 = some (.semwait h0 2 (.imm 1)) ∧ dec 0x520000000103E100 = some (.semset h0 (.reg 1) 3 (.imm 1)) ∧
    dec 0x5704000001020000 = some (.qdrop h0 .shuttle (.reg 1) (g 2)) ∧
    dec 0x6000000007010200 = some (.wqpop h0 false (.reg 7) (g 1) (g 2)) ∧
    dec 0x6200091105010000 = some (.wqrsv (hwp 1 1 2 1) (.reg 5) (g 1)) ∧
    dec 0x6300000000010502 = some (.wqcmt h0 (.reg 0) (g 1) (g 5) (g 2)) ∧
    dec 0x6500000000060701 = some (.wqctlRestart h0 (.reg 0) (g 6) (g 7)) ∧
    dec 0x660100000904E3E0 = some (.tbarm h0 true false (.reg 9) (g 4) (.imm 3) (.imm 0)) := by decide +kernel

theorem test_decode_vector :
    dec 0x8011000001AB4200 = some (.vfadd h0 0 .f16 (.reg 1) (.cb 5 3) (.age 2)) ∧
    dec 0x8350000004010240 = some (.vfma h0 2 .f32 (.reg 4) (v 1) (v 2) (.age 0)) ∧
    dec 0x9013000002010390 = some (.vcvt h0 0 .e4m3 .f32 (some .sat) 3 (.reg 2) (v 1)) ∧
    dec 0x9010000002010111 = some (.vcvt h0 0 .f32 .f16 none 1 (.reg 2) (v 1)) ∧
    dec 0xA93100000204E300 = some (.vtopk h0 1 .f16 (.reg 2) (v 4) (.imm 3)) ∧
    dec 0xAA0200000100E001 = some (.vcmp h0 0 .ne .i16 (.reg 1) (v 0) (.imm 0)) ∧
    dec 0xAB00000001020004 = some (.vmskNot h0 (.reg 1) (.reg 2)) ∧
    dec 0xB223000001010600 = some (.vlds h0 1 .i8 (.reg 1) (g 1) (g 6)) ∧
    dec 0xB12100110003E004 = some (.vst (hwp 0 0 2 1) 1 .i32 (g 3) (.imm 0) (v 4)) ∧
    dec 0xB711000053032805 = some (.vstsh h0 0 .f16 3 5 false 4 2 false (g 3) (v 5)) ∧
    dec 0xB750002107050106 = some (.vstsh (hwp 0 0 4 1) 2 .f32 7 0 true 0 0 false (g 5) (v 6)) := by decide +kernel

theorem test_decode_movement :
    dec 0xC38009110402E000 = some (.fpatchMem (hwp 1 1 2 1) (.bound 0) 4 (g 2) (.imm 0)) ∧
    dec 0xC39700000409E800 = some (.fpatchMem h0 (.target 1) 4 (g 9) (.imm 8)) ∧
    dec 0xC400000000020801 = some (.fgoUnf h0 2 (g 8)) ∧ dec 0xC400210000020000 = some (.fgo (hwp 4 1 0 0) 2) ∧
    (decode 0xC50000000103E0C0 0x3000).toOption = some (.winset { h0 with lit := .l32 0x3000 } 1 (g 3) (.imm 0) .lit) ∧
    dec 0xD0040019000C0405 = some (.cpyOred (hwp 0 0 3 1) none 12 (g 4) (g 5)) := by decide +kernel

theorem test_decode_loom :
    dec 0xE001213900030501 = some (.weave (hwp 4 1 7 1) false false .n8i8 3 (g 5) true false) ∧
    dec 0xE201000000000000 = some (.lmodeSat h0) ∧ dec 0xF000000000E0E100 = some (.accclr h0 (.imm 0) (.imm 1)) ∧
    dec 0xF200000000E001E0 = some (.accst h0 (.imm 0) (g 1) (.imm 0)) ∧
    dec 0xF300090000E001E1 = some (.accaddRow (hwp 1 1 0 0) false (.imm 0) (g 1) (.imm 1)) ∧
    dec 0xF403000001020304 = some (.drain h0 .i8 .sat true (g 2) (g 3) (g 4)) ∧
    dec 0xF60300000002E000 = some (.cbld h0 3 (g 2) (.imm 0)) ∧
    dec 0xF905000000000000 = some (.reedselOn h0 1) := by decide +kernel

/-- What a word is refused as. -/
def refusedAs (w : Word) : Option DecErr := match decode w 0 with
  | .error e => some e
  | .ok _ => none

-- R37 to R47: reserved opcodes, types, conditions and scopes; bits that must be zero; a CRN that is not
-- assigned.
theorem test_decode_refuses_illegal :
    [(0x1700000000000000 : Word), 0x2500000000000000, 0xFF00000000000000, 0x0104000001020300, 0x12C0000001020300,
      0x30D3000001020300, 0x0120000001020300, 0x0100000001020301, 0x0000000000000001, 0x0000080000000000,
      0x400000000100001B, 0x4000000001000200, 0x2018000000010200, 0x3108000000010203, 0x34A0000001020300, 0xAC01000001020300,
      0xE084000000030500, 0xE0C0000000030500, 0xE000000000030502, 0xF438000000020304, 0xF901000000000000,
      0xC280000004020000].all (refusedAs · == some .illegal) = true := by decide +kernel

-- R38, R39, R193: two literals, and one too wide, as for the 32-bit lanes that `VUNPACK.I64` reads (the
-- 64-bit lanes of `VPACK.I32` take it); classes and indices that a field does not admit.
theorem test_decode_refuses_operands :
    [(0x0100000001C0C000 : Word), 0x010100000101C100, 0x9320000001C10100].all (refusedAs · == some .form) = true ∧
    refusedAs 0x9221000001C10200 = none ∧
    [(0x0100000001800200 : Word), 0x01000000C0010200, 0x0100000041010200, 0x0100000001200200, 0x0100000001500200,
      0x010000000101C200].all (refusedAs · == some .opClass) = true := by decide +kernel

-- Each check of well-formedness refuses an ill-formed term.
theorem test_wf_refuses : [
    -- types
    Instr.add h0 .f32 (.reg 1) (g 1) (g 1), .ext h0 .i32 (.reg 1) (g 1) (g 1) 0, .ins h0 .i64 .push (g 1) (g 1) 0,
    .vadd h0 0 .i4 (.reg 1) (v 1) (v 1), .vfadd h0 0 .e4m3 (.reg 1) (v 1) (v 1), .vpack h0 0 .i64 (.reg 1) (v 1) (v 1),
    .vshuf h0 0 .i4 (.reg 1) (v 1) (v 1) (v 1), .vredsum h0 0 .e4m3 (.reg 1) (v 1) (v 1), .vld h0 0 .sh8 (.reg 1) (g 1) (g 1),
    .vcvt h0 0 .sh4 .f32 none 0 (.reg 1) (v 1), .drain h0 .i64 .sat false (g 1) (g 1) (g 1),
    -- modifiers
    .ld h0 .die false true .b8 (.reg 1) (g 1) (g 1), .st h0 .sys false .b8 (g 1) (g 1) (g 1), .csrd h0 (.reg 1) 0x01B,
    .csrd h0 (.reg 1) 0x07F, .csrd h0 (.reg 1) 0x10B, .vcvt h0 0 .f32 .f16 none 2 (.reg 1) (v 1),
    .vcbx h0 0 .f32 0 0 4 (.reg 1) (v 1), .vcbx h0 0 .f16 0 0 2 (.reg 1) (v 1), .vcbx h0 0 .f32 0 1 0 (.reg 1) (v 1),
    .vsel h0 0 .i32 (.reg 1) (v 1) (v 1), .vldsh h0 0 .f16 false 1 none (.reg 1) (g 1),
    .vstsh h0 0 .f16 0 0 false 1 0 false (g 1) (v 1), .vstsh h0 0 .f32 0 1 true 0 0 false (g 1) (v 1),
    .vstsh h0 0 .f32 0 0 true 0 0 true (g 1) (v 1), .fpatch h0 (.attr 0) 0 (g 1), .fpatchMem h0 .patchen 0 (g 1) (g 1),
    .weave h0 true false .i4i4 0 (g 1) false false, .weave h0 true false .s8s8 0 (g 1) false false,
    .weave h0 true true .i8i8 0 (g 1) false false, .weave h0 false false .i8i8 0 (g 1) false true,
    .drain h0 .sh8 .inf false (g 1) (g 1) (g 1),
    -- operand classes
    .vst h0 0 .i32 (g 1) (g 1) (.cb 0 0), .vgath h0 0 .i32 0 (.reg 1) (g 1) (.cb 0 0),
    .vcbx h0 0 .f32 0 0 0 (.reg 1) (.imm 0), .vcvt h0 0 .f32 .e4m3 none 0 (.reg 1) (.cb 0 0),
    -- waits, posts and literals
    .nop { h0 with wsem := 1 }, .nop { h0 with psem := 1 }, .nop { h0 with lit := .l32 0 },
    .add h0 .i64 (.reg 1) (g 1) .lit, .add { h0 with lit := .l32 0 } .i64 (.reg 1) .lit .lit,
    .add { h0 with lit := .l64 0 } .i32 (.reg 1) (g 1) .lit, .vadd { h0 with lit := .l64 0 } 0 .i32 (.reg 1) (v 1) .lit,
    -- an event has no encoding
    .coolantLoss].any (·.wf) = false ∧
  [Instr.add { h0 with lit := .l64 0 } .i64 (.reg 1) (g 1) .lit, .vld { h0 with lit := .l64 0 } 0 .i8 (.reg 1) .lit (g 1),
    .vadd h0 0 .i8 (.reg 1) (.cb 7 7) (v 1), .csrd h0 (.reg 1) 0x01A, .csrd h0 (.reg 1) 0x10A,
    .vldsh h0 0 .f16 false 4 none (.reg 1) (g 1), .vcvt h0 0 .f32 .i8 none 3 (.reg 1) (v 1),
    .nop { h0 with wsem := 31, wamt := 7, psem := 31, pamt := 7 }].all (·.wf) = true := by decide +kernel

theorem wit_AgendaTurns :
    ((Instr.coolantLoss).fields = none ∧ (Instr.nop h0).fields ≠ none ∧
      ({ State.reset with agenda := [.event .coolantLoss] } : State).agenda = [.event .coolantLoss] ∧
      State.reset.agenda = []) ∧
    -- a location of the core gets an error, and an instruction that is ready reads it
    (∃ n, ((tst .C).coreAt 0).act = some n ∧ n.badAt (.g .C 1) = none) ∧
    (let n := ((busy .L 2).on 0 .L).inst
     n.badAt (.held .L 1) = none ∧ (n.streams.get .L).eqDone ≤ 1 ∧
       1 < (n.streams.get .L).eqDone + (n.streams.get .L).eq.length) ∧
    -- a supervisor at an instruction that is no load or store
    ((∀ x, ({ mem := [(0, 0x93)] } : Cpu32).fetch supervisorBytes = some x → x.1 % 128 ≠ 0x03 ∧ x.1 % 128 ≠ 0x23)) ∧
    (let n : Inst := { (tst .C).inst with bad := [(.g .C 1, 8)] }
     let s := (tst .C).setInst n
     let i := Instr.mov h0 .i64 (.reg 2) (g 1)
     Spot.g .C 1 ∈ spotsOf n i .C ∧ (∀ x ∈ spotsOf n i .C, x ≠ .g .C 1 → n.badAt x = none) ∧
       n.badAt (.g .C 1) = some 8 ∧ i.fields.isSome = true ∧ s.issues = true ∧ s.decodeFault i = none ∧
       i.head.wamt = 0 ∧ s.latchBusy i = false) ∧
    (∃ t, ((tst .C).setInst { (tst .C).inst with bad := [(.g .C 1, 8)] }).inst.sound
      (spotsOf (tst .C).inst (.mov h0 .i64 (.reg 2) (g 1)) .C) = .error t) ∧
    -- a supervisor that runs
    (((tst .C).setPlot 0 { (tst .C).plotAt 0 with supUp := true }).plotAt 0).supUp = true ∧
    -- a nudge is due
    (let r := (nudging none).on 0 .C
     r.self.act.isSome = true ∧ r.inst.nudgeDue = true) ∧
    -- a stream that may not issue, and a pc that is no multiple of 8
    ((tstI .C fun i => { i with phase := .stopped false }).issues = false ∧
      (let e := tstI .C fun i => i.modStr .C fun x => { x with pc := 0x10004 }
       e.issues = true ∧ e.inst.nudgeDue = false ∧ e.str.pc.toNat % 8 ≠ 0)) ∧
    -- bytes that may not be fetched
    ((mapped 0 true).issues = true ∧ (mapped 0 true).inst.nudgeDue = false ∧ (mapped 0 true).str.pc.toNat % 8 = 0) ∧
    (∃ t, (fetching (mapped 0 true)).fetch8 (mapped 0 true).str.pc = .error t) ∧
    -- a wait for a semaphore whose count has an error
    (let s := (tst .C).setInst { (tst .C).inst with bad := [(.sem 3, 8)] }
     s.inst.badAt (.sem 3) = some 8 ∧ (hw 3 7).wamt ≠ 0 ∧ s.str.got = [] ∧ s.decodeFault (.nop (hw 3 7)) = none) ∧
    -- words that are no instruction
    (∀ w ∈ [(0x1700000000000000 : Nat), 0x0100000001C0C000, 0x0100000001800200],
      let e := fetching (placed w 0)
      e.issues = true ∧ e.inst.nudgeDue = false ∧ e.str.pc.toNat % 8 = 0 ∧
        (e.fetch8 e.str.pc).toOption = some (.ofNat 64 w) ∧
        (opStreams (Fields.of (.ofNat 64 w)).op).contains .C = true ∧ e.inst.launch.priv = true) ∧
    (∃ er, decode 0x1700000000000000 0 = .error er) ∧ (∃ er, decode 0x0100000001C0C000 0 = .error er) ∧
    ∃ er, decode 0x0100000001800200 0 = .error er :=
  ⟨by decide +kernel, ⟨_, rfl, by decide +kernel⟩, by decide +kernel,
    (fun x h => by
      have e : ({ mem := [(0, 0x93)] } : Cpu32).fetch supervisorBytes = some (0x93, 4) := by decide +kernel
      rw [e] at h; cases h; decide), by decide +kernel, error_of (by decide +kernel), by decide +kernel,
    by decide +kernel, by decide +kernel, by decide +kernel, error_of (by decide +kernel), by decide +kernel,
    by decide +kernel, error_of (by decide +kernel), error_of (by decide +kernel), error_of (by decide +kernel)⟩

-- A well-formed instruction of each group, and a word that decodes.
theorem wit_RoundTrips :
    (opIn (.loop { h0 with wsem := 31, wamt := 7, lit := .l64 5 } .push .lit (.imm 31)) 0 0x40 = true ∧
      (Instr.loop { h0 with wsem := 31, wamt := 7, lit := .l64 5 } .push .lit (.imm 31)).wf = true) ∧
    (opIn (.tbarrive { h0 with psem := 31, pamt := 7 } (g 31) (.age 15) (.imm 0)) 0x40 0x70 = true ∧
      (Instr.tbarrive { h0 with psem := 31, pamt := 7 } (g 31) (.age 15) (.imm 0)).wf = true) ∧
    (opIn (.vstsh h0 7 .bf16 15 15 false 4 7 true (g 31) (.age 15)) 0x70 0xC0 = true ∧
      (Instr.vstsh h0 7 .bf16 15 15 false 4 7 true (g 31) (.age 15)).wf = true) ∧
    (opIn (.weave h0 false true .s4s8 63 (.imm 31) true true) 0xC0 0x100 = true ∧
      (Instr.weave h0 false true .s4s8 63 (.imm 31) true true).wf = true) ∧
    isOk (decode 0xE001213900030501 0) = true := by decide +kernel

-- The first step after reset goes on, from a memory that has its canonical form.
theorem wit_StepKeepsMemoryCanonical : State.reset.memOk ∧ ∃ t, step State.reset = .next t :=
  ⟨show Memory.wf State.reset.mem = true by decide +kernel, _, next_of (by decide +kernel)⟩

/-- The state after the first step of a program of one instruction. -/
def ran (w p : Nat) : State := nextOf (step (placed w p))

-- R119, R40: 0 + 1000; R39: the next instruction stands behind the literal and its padding; R28: the result
-- is `%a0`.
theorem test_add_literal : (ran 0x010000000300C000 1000).inst.g .C 3 = 1000 ∧
    (ran 0x010000000300C000 1000).inst.streams.c.pc = 0x10010 ∧
    ((ran 0x010000000300C000 1000).inst.ages .C)[0]? = some 1000 := by decide +kernel

-- R119: −16 × −8 is 128, which wraps to −128 in I8 and is sign-extended; in N8 240 × 248 is 128 modulo 256.
theorem test_mul_wraps : (ran 0x0303000003F0F800 0 |>.inst.g .C 3) = 0xFFFFFFFFFFFFFF80 ∧
    (ran 0x030B000003F0F800 0 |>.inst.g .C 3) = 0x80 := by decide +kernel

-- R120: −7 / 2 is −3 with remainder −1; 5 / 0 is −1 with remainder 5, and DZ (bit 4 of `cr.OVF`) is set.
theorem test_div_truncates : (ran 0x0501000003F9E200 0 |>.inst.g .C 3) = 0xFFFFFFFFFFFFFFFD ∧
    (ran 0x0601000003F9E200 0 |>.inst.g .C 3) = 0xFFFFFFFFFFFFFFFF ∧
    (ran 0x0501000003E5E000 0 |>.inst.g .C 3) = 0xFFFFFFFFFFFFFFFF ∧
    (ran 0x0609000003E5E000 0 |>.inst.g .C 3) = 5 ∧ (ran 0x0609000003E5E000 0 |>.inst.ovf) = 0x10 := by decide +kernel

-- R124: a branch is relative to its own address: C = −3 words goes back 24 bytes.
theorem test_branch_back : (ran 0x20000000000000FD 0 |>.inst.streams.c.pc) = 0xFFE8 ∧
    (ran 0x20200000000000FD 0 |>.inst.streams.c.pc) = 0x10008 := by decide +kernel

-- R128: an absolute target that is no multiple of 8 is `ALIGN`, with the target in `pcr.FADDR`.
theorem test_jump_misaligned : (ran 0x2101000000E40000 0 |>.self.fcause) = 0x06 ∧
    (ran 0x2101000000E40000 0 |>.self.faddr) = 4 ∧ (ran 0x2101000000E40000 0 |>.inst.phase) = .stopped false := by
  decide +kernel

-- R99, R132: an `AMO.ADD` of 8 bytes at 0x10000 adds to the word of its own code, and gives the old value.
theorem test_amo_code : (ran 0x3408000003C0E100 0x10000 |>.inst.g .C 3) = 0x3408000003C0E100 ∧
    (ran 0x3408000003C0E100 0x10000 |>.rdWord 0x10000) = 0x3408000003C0E101 := by decide +kernel
end Sys2Proof.Machine.Tests
end

section
/-! SUPPORT. The turns that leave the cores as they are, but for a TLB or an instruction cache. -/

namespace Sys2Proof.Machine

/-- What each change of a fold keeps, the fold keeps. -/
theorem foldl_keeps {α β : Type} (g : State → β) (f : State → α → State) (h : ∀ s a, g (f s a) = g s)
    (l : List α) (s : State) : g (l.foldl f s) = g s :=
  List.foldlRecOn (motive := fun t => g t = g s) l f rfl fun t ht a _ => (h t a).trans ht

@[simp] theorem State.count_cores (s : State) (core ev n : Nat) : (s.count core ev n).cores = s.cores := by
  rcases s.count_eq core ev n with e | ⟨p, e⟩ <;> rw [e]
  rfl

@[simp] theorem State.walkFill_cores (s : State) (core va depth : Nat) : (s.walkFill core va depth).cores = s.cores := by
  simp only [State.walkFill]
  split
  · rfl
  · split <;> rfl

@[simp] theorem State.walkDrop_cores (s : State) (die n : Nat) : (s.walkDrop die n).cores = s.cores := rfl

@[simp] theorem State.granaryError_cores (s : State) (die u : Nat) : (s.granaryError die u).cores = s.cores := by
  simp only [State.granaryError]
  split <;> rfl

@[simp] theorem State.spillByte_cores (s : State) (die q off : Nat) : (s.spillByte die q off).cores = s.cores := by
  simp only [State.spillByte]
  split
  · rfl
  · split <;> rfl

@[simp] theorem State.enterPool_cores (s : State) (die n lo cnt level pool : Nat) :
    (s.enterPool die n lo cnt level pool).cores = s.cores := by
  simp only [State.enterPool]
  split <;> rfl

@[simp] theorem State.handGroup_cores (s : State) (die n g to_ : Nat) : (s.handGroup die n g to_).cores = s.cores := by
  simp only [State.handGroup]
  split
  · rfl
  · split
    · rfl
    · exact foldl_keeps State.cores _ (fun s k => s.enterPool_cores ..) _ _

@[simp] theorem State.hartLine_cores (s : State) (hart n : Nat) (on : Bool) : (s.hartLine hart n on).cores = s.cores := by
  simp only [State.hartLine]
  split <;> rfl

@[simp] theorem State.powerShares_cores (s : State) (w : List Nat) : (s.powerShares w).cores = s.cores := by
  simp only [State.powerShares]
  split <;> rfl

@[simp] theorem State.coolantFlow_cores (s : State) : s.coolantFlow.cores = s.cores := rfl

@[simp] theorem State.peerExport_cores (s : State) (module n : Nat) (e : Option ExportEnt) :
    (s.peerExport module n e).cores = s.cores := by
  simp only [State.peerExport]
  split <;> rfl

@[simp] theorem State.peerSkew_cores (s : State) (module : Nat) (ns : Int) : (s.peerSkew module ns).cores = s.cores := by
  simp only [State.peerSkew]
  split
  · rfl
  · split <;> rfl

@[simp] theorem State.linkResend_cores (s : State) (port : Nat) : (s.linkResend port).cores = s.cores := by
  simp only [State.linkResend]
  split <;> rfl

@[simp] theorem State.setClock_cores (s : State) (sess t : Nat) : (s.setClock sess t).cores = s.cores := by
  simp only [State.setClock]
  split <;> rfl

@[simp] theorem State.consoleOut_cores (s : State) (b : List Byte) : (s.consoleOut b).cores = s.cores := by
  simp only [State.consoleOut]
  split <;> rfl

@[simp] theorem State.heartbeat_cores (s : State) (die : Nat) : (s.heartbeat die).cores = s.cores := by
  simp only [State.heartbeat]
  split <;> rfl

@[simp] theorem State.supervisorHalt_cores (s : State) (plot : Nat) : (s.supervisorHalt plot).cores = s.cores := by
  simp only [State.supervisorHalt]
  split <;> rfl

/-- A queue without a record sets no QP (R177). -/
theorem State.putQueue_cores (s : State) (die n : Nat) (q : WQ) (h : q.ents = []) :
    (s.putQueue die n q).cores = s.cores := by
  simp [State.putQueue, h, dropVoids, WQ.deliverable]

/-- A queue just created holds no record (R161). -/
theorem WQ.create_ents {q w : WQ} {n : Nat} {d : BitVec 512} (h : q.create n d = some w) : w.ents = [] := by
  simp only [WQ.create] at h
  split at h
  · cases h; rfl
  · cases h

@[simp] theorem State.freshQueue_cores (s : State) (die q : Nat) : (s.freshQueue die q).cores = s.cores := by
  simp only [State.freshQueue]
  split <;> rfl

@[simp] theorem State.givePolicy_cores (s : State) (die : Nat) : (s.givePolicy die).cores = s.cores := by
  simp only [State.givePolicy]
  exact (foldl_keeps State.cores _ (fun _ _ => by rfl) _ _).trans (foldl_keeps State.cores _ (fun _ _ => by rfl) _ _)

@[simp] theorem State.createLaunchQueues_cores (s : State) (die : Nat) : (s.createLaunchQueues die).cores = s.cores := by
  refine foldl_keeps State.cores _ (fun s x => ?_) _ _
  obtain ⟨q, d, _⟩ := x
  dsimp only
  split
  next w hw =>
    split
    · rw [State.freshQueue_cores, s.putQueue_cores _ _ _ (WQ.create_ents hw)]
    · rfl
  next => rfl

@[simp] theorem State.newPolicy_cores (s : State) (die : Nat) (p : Policy) : (s.newPolicy die p).cores = s.cores := by
  simp only [State.newPolicy]
  split
  · rfl
  · rw [State.createLaunchQueues_cores, State.givePolicy_cores]

@[simp] theorem State.setCpu_cores (s : State) (p : Policer) (c : Cpu32) : (s.setCpu p c).cores = s.cores := by
  cases p <;> rfl

@[simp] theorem State.cpuGo_cores (s : State) (p : Policer) (pc : BitVec 32) : (s.cpuGo p pc).cores = s.cores :=
  s.setCpu_cores p _

@[simp] theorem State.cpuTrap_cores (s : State) (p : Policer) : (s.cpuTrap p).cores = s.cores :=
  s.nextFree.cpuGo_cores p _

/-- A Reeve has no core port (R290), so its loads leave the cores. -/
@[simp] theorem State.cpuLoad_reeve_cores (s : State) (die a n : Nat) : (s.cpuLoad (.reeve die) a n).2.cores = s.cores := by
  simp only [State.cpuLoad, Policer.port]
  split <;> rfl

/-- A Reeve has no core port (R290), so its stores leave the cores. -/
theorem State.cpuStore_reeve (s : State) (die a n : Nat) (v : BitVec 32) :
    ∃ t, s.cpuStore (.reeve die) a n v = .next t ∧ t.cores = s.cores := by
  simp only [State.cpuStore, Policer.port]
  split
  · exact ⟨_, rfl, s.setCpu_cores _ _⟩
  · exact ⟨_, rfl, rfl⟩

/-- An instruction of a policy processor goes on and leaves the cores, unless it is a load or store at a core
port (R1, R290). -/
theorem State.cpuExec_keepsCores (s : State) (p : Policer) (w len : Nat)
    (hl : w % 128 = 0x03 → ∀ a n, (s.cpuLoad p a n).2.cores = s.cores)
    (hs : w % 128 = 0x23 → ∀ a n v, ∃ t, s.cpuStore p a n v = .next t ∧ t.cores = s.cores) :
    ∃ t, s.cpuExec p w len = .next t ∧ t.cores = s.cores := by
  have hop : bits w 0 7 = w % 128 := by simp [bits]
  have trap : ∃ t, Host.Outcome.next (s.cpuTrap p) = (.next t : Out) ∧ t.cores = s.cores := ⟨_, rfl, s.cpuTrap_cores p⟩
  have goesOn (c : Cpu32) : ∃ t, Host.Outcome.next (s.setCpu p c) = (.next t : Out) ∧ t.cores = s.cores :=
    ⟨_, rfl, s.setCpu_cores p c⟩
  simp only [State.cpuExec]
  split
  -- `LUI`, `AUIPC`, `JAL`
  case h_1 | h_2 | h_3 => exact goesOn _
  -- `JALR`, branches, arithmetic and `FENCE`, some of whose codes are no instruction
  case h_4 | h_5 | h_8 | h_9 | h_10 =>
    split
    · exact goesOn _
    · exact trap
  -- loads
  case h_6 h =>
    split
    · exact trap
    · exact ⟨_, rfl, by rw [State.setCpu_cores, hl (hop ▸ h)]⟩
  -- stores
  case h_7 h =>
    split
    · exact trap
    · obtain ⟨t, ht, hc⟩ := hs (hop ▸ h) _ _ _
      rw [ht]
      exact ⟨_, rfl, by rw [State.cpuGo_cores, hc]⟩
  case h_11 => exact trap

/-- A turn of a policy processor leaves the cores where its instruction does. -/
theorem State.policyStep_keepsCores (s : State) (p : Policer)
    (h : ∀ w len, (s.cpuAt p).fetch p.memory = some (w, len) → ∃ t, s.cpuExec p w len = .next t ∧ t.cores = s.cores) :
    ∃ t, s.policyStep p = .next t ∧ t.cores = s.cores := by
  simp only [State.policyStep]
  split
  · exact ⟨_, rfl, rfl⟩
  · split
    next w len hw => exact h w len hw
    next => exact ⟨_, rfl, s.cpuTrap_cores p⟩

theorem State.policyStep_reeve (s : State) (die : Nat) :
    ∃ t, s.policyStep (.reeve die) = .next t ∧ t.cores = s.cores :=
  s.policyStep_keepsCores _ fun w len _ =>
    s.cpuExec_keepsCores _ w len (fun _ a n => s.cpuLoad_reeve_cores die a n) fun _ a n v => s.cpuStore_reeve die a n v

/-- A supervisor reaches the cores by loads and stores alone (R290). -/
theorem State.policyStep_supervisor (s : State) (plot : Nat)
    (h : ∀ w len, (s.plotAt plot).sup.fetch supervisorBytes = some (w, len) → w % 128 ≠ 0x03 ∧ w % 128 ≠ 0x23) :
    ∃ t, s.policyStep (.supervisor plot) = .next t ∧ t.cores = s.cores :=
  s.policyStep_keepsCores _ fun w len hw =>
    s.cpuExec_keepsCores _ w len (fun e => absurd e (h w len hw).1) fun e => absurd e (h w len hw).2

theorem State.coreAt_of_cores {s t : State} (h : t.cores = s.cores) (k : Nat) : t.coreAt k = s.coreAt k := by
  rw [State.coreAt, State.coreAt, h]

/-- A core without what its TLB and its instruction cache hold. -/
def Core.calm (c : Core) : Core := { c with tlb := [], icache := [] }

/-- No core changed but for its TLB and its instruction cache. -/
def State.keepsCalm (s t : State) : Prop := ∀ k, (t.coreAt k).calm = (s.coreAt k).calm

theorem State.keepsCalm_of_cores {s t : State} (h : t.cores = s.cores) : s.keepsCalm t := fun k =>
  congrArg Core.calm (State.coreAt_of_cores h k)

theorem State.keepsCalm_setCore (s : State) (n : Nat) (c : Core) (h : c.calm = (s.coreAt n).calm) :
    s.keepsCalm (s.setCore n c) := fun k => by
  by_cases hk : k = n
  · subst hk; rw [State.coreAt_setCore_same, h]
  · rw [State.coreAt_setCore_ne _ _ hk]

/-- Looking up changes a TLB at most (R97). -/
theorem State.keepsCalm_of_onlyLooked {s t : State} (h : s.onlyLooked t) : s.keepsCalm t := fun k =>
  (congrArg Core.calm (h.2.1 k) :)

theorem State.keepsCalm_tlbFill (s : State) (core va : Nat) : s.keepsCalm (s.tlbFill core va) := by
  simp only [State.tlbFill]
  split
  · exact State.keepsCalm_of_onlyLooked (s.onlyLooked_fill _ _)
  · exact State.keepsCalm_of_cores rfl

theorem State.keepsCalm_tlbDrop (s : State) (core n : Nat) : s.keepsCalm (s.tlbDrop core n) :=
  s.keepsCalm_setCore _ _ rfl

theorem State.keepsCalm_codeFill (s : State) (core pa : Nat) : s.keepsCalm (s.codeFill core pa) := by
  simp only [State.codeFill]
  split
  · exact State.keepsCalm_of_cores rfl
  · exact s.keepsCalm_setCore _ _ rfl

theorem State.keepsCalm_codeDrop (s : State) (core n : Nat) : s.keepsCalm (s.codeDrop core n) :=
  s.keepsCalm_setCore _ _ rfl

/-- The turns of caches, granary units, spill rings, groups, policies, Reeves, halts, interrupt lines, power,
coolant, other modules, links, the clock and the console. -/
def Turn.aside : Turn → Bool
  | .stream _ _ | .event _ | .elapse _ | .coreError _ _ _ | .granaryRead _ _ _ | .policyStep (.supervisor _)
  | .hartStep _ => false
  | _ => true

/-- A turn aside goes on, and changes a TLB or an instruction cache of a core at most. -/
theorem Turn.run_aside (x : Turn) (s : State) (hx : x.aside = true) : ∃ t, x.run s = .next t ∧ s.keepsCalm t := by
  have plain {t : State} (h : t.cores = s.cores) : ∃ u, Host.Outcome.next t = (.next u : Out) ∧ s.keepsCalm u :=
    ⟨t, rfl, State.keepsCalm_of_cores h⟩
  cases x with
  | stream | event | elapse | coreError | granaryRead | hartStep => cases hx
  | tlbFill core va => exact ⟨_, rfl, s.keepsCalm_tlbFill core va⟩
  | tlbDrop core n => exact ⟨_, rfl, s.keepsCalm_tlbDrop core n⟩
  | codeFill core pa => exact ⟨_, rfl, s.keepsCalm_codeFill core pa⟩
  | codeDrop core n => exact ⟨_, rfl, s.keepsCalm_codeDrop core n⟩
  | walkFill core va depth => exact plain (s.walkFill_cores core va depth)
  | walkDrop die n => exact plain (s.walkDrop_cores die n)
  | granaryError die u => exact plain (s.granaryError_cores die u)
  | spillByte die q off => exact plain (s.spillByte_cores die q off)
  | handGroup die node group to_ => exact plain (s.handGroup_cores die node group to_)
  | supervisorHalt plot => exact plain (s.supervisorHalt_cores plot)
  | policyStep p =>
    cases p with
    | reeve die =>
      obtain ⟨t, ht, hc⟩ := s.policyStep_reeve die
      exact ⟨t, ht, State.keepsCalm_of_cores hc⟩
    | supervisor => cases hx
  | hartLine hart n on => exact plain (s.hartLine_cores hart n on)
  | powerShares w => exact plain (s.powerShares_cores w)
  | coolantFlow => exact plain s.coolantFlow_cores
  | peerExport module n e => exact plain (s.peerExport_cores module n e)
  | peerSkew module ns => exact plain (s.peerSkew_cores module ns)
  | linkResend port => exact plain (s.linkResend_cores port)
  | setClock sess t => exact plain (s.setClock_cores sess t)
  | consoleOut b => exact plain (s.consoleOut_cores b)
  | heartbeat die => exact plain (s.heartbeat_cores die)
  | policy die p => exact plain (s.newPolicy_cores die p)

/-- A core that shows nothing runs no operation. -/
theorem Inst.op_default (e : Engine) : ({} : Inst).op e = none := by
  cases e with
  | loom => rfl
  | fgo st => cases st <;> rfl
  | copy id => rfl

/-- A read ahead of a granary unit (R93) changes no core but its own, and that in the operation it is part of. -/
theorem State.granaryRead_coreAt (s : State) (core : Nat) (e : Engine) (u : Nat) :
    (∀ k, k ≠ core → (s.granaryRead core e u).coreAt k = s.coreAt k) ∧
    ((s.granaryRead core e u).coreAt core = s.coreAt core ∨ ∃ i c p, (s.coreAt core).act = some i ∧ i.op e = some c ∧
      (s.granaryRead core e u).coreAt core = (s.coreAt core).setAct (i.setOp e { c with prog := p })) := by
  simp only [State.granaryRead]
  split
  · exact ⟨fun _ _ => rfl, .inl rfl⟩
  next c hc =>
    split
    · have hi : (s.coreAt core).act = some (s.on core s.stream).inst := by
        have h : (s.on core s.stream).inst = (s.coreAt core).act.getD {} := rfl
        cases ha : (s.coreAt core).act with
        | none => rw [h, ha, Option.getD_none, Inst.op_default] at hc; cases hc
        | some i => rw [h, ha, Option.getD_some]
      refine ⟨fun k hk => ?_, .inr ⟨_, c, { c.prog with ahead := c.prog.ahead ++ [(u, s.mtime.toNat)] }, hi, hc, ?_⟩⟩
      · rw [State.coreAt, State.count_cores]
        exact State.coreAt_setInst_ne _ _ hk
      · rw [State.coreAt, State.count_cores]
        exact State.coreAt_setCore_same _ _ _
    · exact ⟨fun _ _ => rfl, .inl rfl⟩

end Sys2Proof.Machine
end

section
/-! SUPPORT. The passing of time. -/

namespace Sys2Proof.Machine

@[simp] theorem State.countTime_mem (s : State) (core ns : Nat) (c : Core) : (s.countTime core ns c).mem = s.mem := by
  simp only [State.countTime]
  split
  · rfl
  · split
    · rw [State.count_mem, State.count_mem, State.count_mem]
    · rfl

@[simp] theorem State.countGrants_mem (s : State) (ns : Nat) : (s.countGrants ns).mem = s.mem := by
  refine foldl_keeps State.mem _ (fun t d => foldl_keeps State.mem _ (fun t x => ?_) _ _) _ _
  obtain ⟨n, _ | x⟩ := x
  · rfl
  · dsimp only
    split
    · rfl
    · refine foldl_keeps State.mem _ (fun t p => ?_) _ _
      split
      · exact t.count_mem _ _ _
      · rfl

/-- Time passes by what its turn says (R33). -/
theorem State.elapse_mtime (s : State) (ns : Nat) : (s.elapse ns).mtime = s.mtime + .ofNat 64 ns := rfl

/-- Passing time writes no byte of memory. -/
theorem State.elapse_mem (s : State) (ns : Nat) : (s.elapse ns).mem = s.mem := by
  simp only [State.elapse, State.nextFree]
  rw [foldl_keeps State.mem (State.slewPeer ns) (fun _ _ => rfl), State.countGrants_mem,
    foldl_keeps State.mem _ fun _ _ => State.countTime_mem ..]

end Sys2Proof.Machine
end

section
/-! SUPPORT. Uncorrectable errors of a core's locations (R302). -/

namespace Sys2Proof.Machine

/-- A location without an error so far holds the one it gets. -/
theorem Inst.badAt_append (i : Inst) (p : Spot) (w : Word) (h : i.badAt p = none) :
    Inst.badAt { i with bad := i.bad ++ [(p, w)] } p = some w := by
  have hn : i.bad.find? (·.1 == p) = none := by simpa [Inst.badAt] using h
  simp [Inst.badAt, List.find?_append, hn]

/-- A location that a core has: a held store or post while it is held. -/
theorem Inst.hasSpot_of_held {i : Inst} {p : Spot} (h : ∀ st k, p = .held st k →
    (i.streams.get st).eqDone ≤ k ∧ k < (i.streams.get st).eqDone + (i.streams.get st).eq.length) :
    i.hasSpot p = true := by
  cases p with
  | held st k => simpa [Inst.hasSpot] using h st k rfl
  | _ => rfl

/-- An error in a location that the core has, and that has none so far. -/
theorem State.coreError_new {s : State} {core : Nat} {p : Spot} {i : Inst} (w : Word) (ha : (s.coreAt core).act = some i)
    (hb : i.badAt p = none) (hp : i.hasSpot p = true) :
    s.coreError core p w = s.setCore core ((s.coreAt core).setAct { i with bad := i.bad ++ [(p, w)] }) := by
  simp [State.coreError, ha, hb, hp]

/-- Reading locations of which one has an error raises `ECC_UNCORR` with it. -/
theorem Inst.sound_error {i : Inst} {l : List Spot} {p : Spot} {w : Word} (hp : p ∈ l)
    (hl : ∀ x ∈ l, x ≠ p → i.badAt x = none) (hb : i.badAt p = some w) : i.sound l = .error ⟨.eccUncorr, w⟩ := by
  have hf : l.findSome? i.badAt = some w := by
    induction l with
    | nil => cases hp
    | cons x t ih =>
      by_cases hx : x = p
      · rw [hx, List.findSome?_cons, hb]
      · rw [List.findSome?_cons, hl x List.mem_cons_self hx]
        exact ih ((List.mem_cons.mp hp).resolve_left (Ne.symm hx)) fun y hy => hl y (List.mem_cons_of_mem _ hy)
  simp only [Inst.sound, hf]
  rfl

/-- A wait for a semaphore whose count has an error raises `ECC_UNCORR` with it. -/
theorem State.acquire_bad {s : State} {n : Fin 32} {amt : Nat} {w : Word} (ha : amt ≠ 0) (hg : s.str.got = [])
    (hb : s.inst.badAt (.sem n) = some w) : s.acquire 0 n amt = .error ⟨.eccUncorr, w⟩ := by
  have hs : s.inst.sound [.sem n] = .error ⟨.eccUncorr, w⟩ :=
    Inst.sound_error List.mem_cons_self (fun x hx hn => absurd (List.mem_singleton.mp hx) hn) hb
  simp [State.acquire, ha, hg, hs, Except.map]

/-- A wait whose count cannot be read raises the error instead of the instruction's effect. -/
theorem issue_wait_error {i : Instr} {s : State} {t : Trap} (body : State → Res) (hi : s.issues = true)
    (hd : s.decodeFault i = none) (ha : s.acquire 0 i.head.wsem i.head.wamt = .error t) :
    issue i s body = .next (s.raise s.stream t) := by
  simp [issue, hi, hd, ha]

/-- A named location that cannot be read raises the error instead of the instruction's effect. -/
theorem issue_spot_error {i : Instr} {s s1 : State} {t : Trap} (body : State → Res) (hi : s.issues = true)
    (hd : s.decodeFault i = none) (ha : s.acquire 0 i.head.wsem i.head.wamt = .ok (some s1))
    (hb : s1.latchBusy i = false) (hs : s1.inst.sound (spotsOf s1.inst i s1.stream) = .error t) :
    issue i s body = .next (s1.raise s1.stream t) := by
  simp [issue, hi, hd, ha, hb, hs]

/-- An instruction below the opcodes of commands runs in its stream: its meaning is issued with an effect of its
own (R118, R219). -/
theorem exec_eq_issue {i : Instr} {f : Fields} (hf : i.fields = some f) (hop : f.op.toNat < 0xC4) (s : State) :
    ∃ body, exec i s = issue i s body := by
  cases i
  case fgo | fgoUnf | fgoDec | winset | winq | cpy | cpyUnf | cpyDec | cpyRed | cpyOred | cpyq | weave | scacc
    | lmodeWrap | lmodeSat | lsync | accclr | accld | accst | accaddRow | accaddCol | drain | mdcopy | cbld | cbq
    | reedld | reedselOn | reedselOff =>
    cases hf
    simp [Head.fields] at hop
  case pauseEnd | fenceXJoin | waitGrant | nudgeDelivery | fgoCommandStart | fgoComplete | timedCopyRelease
    | shuttleCommandStart | orderedReduceApply | copyComplete | storeWritePerformed | ldlLockGrant | loomCommandStart
    | loomStep | loomCommandComplete | granaryReadResume | launchQueueRecord | instancePlace | instanceStart
    | instanceAging | iterationEnd | graphEndSample | preemption | preemptingRetire | pcmdResume | pcmdAbort
    | pcmdRerun | pcmdSave | corePortWrite | debugViewWrite | parserPacket | parserSliceExpiry | watchdogTimeout
    | ringProducerStallTimeout | reservationTimeout | cmdPush | cmdPop | cmdStat | cmdCreate | cmdRestart | cmdDestroy
    | cmdRead | hstatRead | commandPageWrite | dispatchStop | journalReplay | reeveHeartbeatTimeout | reeveReload
    | supervisorReload | draughtBudgetSet | plotReassign | mgmtSessionOpen | imageUpdate | powerReset | telemetry
    | console | bringUp | thermalThrottle | thermalShutdown | coolantLoss | linkFlit | linkDown | moduleFence
    | copyPoint | linkUp | exportTableWrite | hostHartAccess | debugViewRead | corePortRead =>
    cases hf
  all_goals
    unfold exec
    exact ⟨_, rfl⟩

end Sys2Proof.Machine
end

section
/-! SUPPORT. What a stream's turn comes to where no instruction runs (R30, R48, R141). -/

namespace Sys2Proof.Machine

/-- A step takes the first turn of the agenda. -/
theorem step_of_agenda {s : State} {x : Turn} {rest : List Turn} (h : s.agenda = x :: rest) :
    step s = x.run { s with agenda := rest } := by
  simp only [step, State.turn, h]

/-- A nanosecond passes where no agent moves. -/
theorem step_of_no_agenda {s : State} (h : s.agenda = []) : step s = .next (s.elapse 1) := by
  simp only [step, State.turn, h]

/-- An event of the table has its meaning, once what it looks up has entered the TLB (log 56). -/
theorem State.eventTurn_event (s : State) {i : Instr} (h : i.fields = none) :
    s.eventTurn i = exec i (s.lookUps (s.eventRuns i).1 (s.eventRuns i).2) := by
  simp only [State.eventTurn, h]
  rfl

/-- An instruction is no event (log 6). -/
theorem State.eventTurn_instr (s : State) {i : Instr} (h : i.fields ≠ none) : s.eventTurn i = .next s := by
  simp [State.eventTurn, h]

/-- What a core shows does not depend on its TLB. -/
theorem Core.act_of_tlb {c d : Core} (h : { c with tlb := [] } = { d with tlb := [] }) : c.act = d.act :=
  (congrArg Core.act h :)

/-- Looking up leaves the executing core, its stream and what it shows. -/
theorem State.onlyLooked.keeps {s t : State} (h : s.onlyLooked t) :
    t.core = s.core ∧ t.stream = s.stream ∧ t.inst = s.inst := by
  obtain ⟨he, hc, _⟩ := h
  have hcore : t.core = s.core := by rw [← he]
  refine ⟨hcore, by rw [← he], ?_⟩
  rw [State.inst, State.inst, State.self, State.self, hcore, Core.act_of_tlb (hc s.core)]

/-- A stream may issue only on a core that shows something to execute. -/
theorem State.act_of_issues {s : State} (h : s.issues = true) : s.self.act.isNone = false := by
  obtain ⟨ha, _⟩ := Bool.and_eq_true_iff.mp h
  rw [← Option.not_isSome, ha]
  rfl

/-- No nudge goes before the stream's next instruction. -/
theorem State.noNudge {s : State} (h : s.stream = .C → s.inst.nudgeDue = false) :
    (s.stream == .C && s.inst.nudgeDue) = false := by
  by_cases hc : s.stream = .C
  · rw [h hc, Bool.and_false]
  · rw [beq_eq_false_iff_ne.mpr hc, Bool.false_and]

/-- A nudge that is due is delivered before C's next instruction (R141). -/
theorem State.streamTurn_nudge {s : State} (ha : s.self.act.isSome = true) (hc : s.stream = .C)
    (hn : s.inst.nudgeDue = true) : s.streamTurn = .next s.deliver := by
  simp [State.streamTurn, hc, hn, Option.isSome_iff_ne_none.mp ha]

/-- A stream that may not issue does nothing (log 6). -/
theorem State.streamTurn_idle {s : State} (hn : s.stream = .C → s.inst.nudgeDue = false) (hi : s.issues = false) :
    s.streamTurn = .next s := by
  simp [State.streamTurn, State.noNudge hn, hi]

/-- A fault of the fetch is raised. -/
theorem State.streamTurn_fault {s : State} {t : Trap} (hn : s.stream = .C → s.inst.nudgeDue = false)
    (hi : s.issues = true) (hf : (s.lookUps s.core s.fetchRuns).fetch = .error t) :
    s.streamTurn = .next ((s.lookUps s.core s.fetchRuns).raise s.stream t) := by
  obtain ⟨_, hs, _⟩ := (s.onlyLooked_lookUps s.core s.fetchRuns).keeps
  simp [State.streamTurn, State.act_of_issues hi, State.noNudge hn, hi, hf, hs]

/-- A pc that is no multiple of 8 raises `ALIGN` (R48). -/
theorem State.fetch_misaligned {s : State} (h : s.str.pc.toNat % 8 ≠ 0) : s.fetch = .error ⟨.align, s.str.pc⟩ := by
  simp [State.fetch, need, h, bind, Except.bind]

/-- A pc that is no multiple of 8 names no bytes to look up. -/
theorem State.fetchRuns_misaligned {s : State} (h : s.str.pc.toNat % 8 ≠ 0) : s.fetchRuns = [] := by
  simp [State.fetchRuns, h]

/-- A stream whose pc is no multiple of 8 raises `ALIGN` with it (R48). -/
theorem State.streamTurn_misaligned {s : State} (hn : s.stream = .C → s.inst.nudgeDue = false) (hi : s.issues = true)
    (hp : s.str.pc.toNat % 8 ≠ 0) : s.streamTurn = .next (s.raise s.stream ⟨.align, s.str.pc⟩) := by
  have hl : s.lookUps s.core s.fetchRuns = s := by rw [State.fetchRuns_misaligned hp]; rfl
  have hf := State.streamTurn_fault (t := ⟨.align, s.str.pc⟩) hn hi (by rw [hl]; exact State.fetch_misaligned hp)
  rwa [hl] at hf

/-- Bytes that may not be fetched raise their cause (R48, R96). -/
theorem State.fetch_unreadable {s : State} {pc : Word} {t : Trap} (hpc : s.str.pc = pc) (hp : pc.toNat % 8 = 0)
    (hw : s.fetch8 pc = .error t) : s.fetch = .error t := by
  simp [State.fetch, need, hpc, hp, hw, bind, Except.bind]

/-- The cause of a word that is no instruction, where nothing before it in R48 is wrong. -/
def causeOf : DecErr → Cause
  | .illegal => .illegalOp
  | .form => .literalForm
  | .opClass => .operandClass

/-- In a stream and a job that may run its opcode, a word that is no instruction has the cause of what is wrong with
it (R48). -/
theorem State.decodeCause_allowed {s : State} {f : Fields} (er : DecErr) (hs : (opStreams f.op).contains s.stream = true)
    (hp : opPriv f.op f.b = true → s.inst.launch.priv = true) : s.decodeCause f er = causeOf er := by
  have hpriv : (opPriv f.op f.b && !s.inst.launch.priv) = false := by
    by_cases h : opPriv f.op f.b = true
    · rw [hp h, Bool.not_true, Bool.and_false]
    · rw [Bool.eq_false_iff.mpr h, Bool.false_and]
  cases er with
  | illegal => rfl
  | form | opClass => simp only [State.decodeCause, hs, hpriv]; rfl

/-- A word that is no instruction raises its cause (R48). -/
theorem State.fetch_undecodable {s : State} {pc w : Word} {er : DecErr} (hpc : s.str.pc = pc) (hp : pc.toNat % 8 = 0)
    (hw : s.fetch8 pc = .ok w) (hd : decode w 0 = .error er) :
    s.fetch = .error ⟨s.decodeCause (Fields.of w) er, 0⟩ := by
  have ha : need (pc.toNat % 8 == 0) .align pc = .ok () := by simp [need, hp]
  simp only [State.fetch, hpc, ha, hw, hd, bind, Except.bind]
  rfl

end Sys2Proof.Machine
end

section
/-! PROOF. The turns of the agenda other than a decoded instruction's. -/

namespace Sys2Proof.Machine

/-- Settles O51: a step is the first turn of the agenda, and each kind of turn does what its lemma above says. -/
theorem agendaTurns : Obligations.AgendaTurns := by
  unfold Obligations.AgendaTurns
  intro core ns plot st rest i f n spot l t w loc er va depth k u ex skew ws bytes pol on en s s1 r calm aside cpu e looked
    pc turn fetches there
  have hstep {x : Turn} (h : s.agenda = x :: rest) : step s = x.run r := step_of_agenda h
  have hstream (h : turn) : step s = e.streamTurn := hstep h.1
  -- looking up leaves what the stream's turn goes on to read
  obtain ⟨_, hst, hinst⟩ := (e.onlyLooked_lookUps core e.fetchRuns).keeps
  have hpc : looked.str.pc = pc := by
    show (looked.inst.streams.get looked.stream).pc = pc
    rw [hinst, hst]
    rfl
  have hfault (t : Trap) (h : fetches) (hf : looked.fetch = .error t) : step s = .next (looked.raise st t) :=
    (hstream h.1).trans (State.streamTurn_fault h.1.2 h.2.1 hf)
  refine ⟨?event, ?instruction, ?elapse, ?noAgent, ?nudge, ?idle, ?coreError, Inst.sound_error, ?raises, ?wait, ?halt,
    ?aside, ?granaryRead, ?supervisor, ?misaligned, ?unreadable, ?undecodable⟩
  case event => exact fun h hi => (hstep h).trans (r.eventTurn_event hi)
  case instruction => exact fun h hi => (hstep h).trans (r.eventTurn_instr hi)
  case elapse => exact fun h => ⟨_, hstep h, r.elapse_mtime ns, r.elapse_mem ns⟩
  case noAgent => exact fun h => ⟨_, step_of_no_agenda h, s.elapse_mtime 1, s.elapse_mem 1⟩
  case nudge => exact fun h ha hn => (hstep h).trans (State.streamTurn_nudge ha rfl hn)
  case idle => exact fun h hi => (hstream h).trans (State.streamTurn_idle h.2 hi)
  case coreError =>
    intro h ha hb hp
    have hc := r.coreError_new loc ha hb (Inst.hasSpot_of_held hp)
    exact ⟨(hstep h).trans (congrArg _ hc), n.badAt_append spot loc hb⟩
  case raises =>
    intro hf hop hi hd
    obtain ⟨body, hx⟩ := exec_eq_issue hf hop s
    rw [hx]
    exact ⟨issue_wait_error body hi hd, issue_spot_error body hi hd⟩
  case wait => exact fun ha hg hb => State.acquire_bad (Fin.val_ne_zero_iff.mpr ha) hg hb
  case halt => exact fun h hu => (hstep h).trans (congrArg _ (if_pos hu))
  case aside =>
    intro x hx h
    have hall : ∀ y ∈ aside, y.aside = true := by simp [aside, Turn.aside]
    obtain ⟨t, ht, hc⟩ := x.run_aside r (hall x hx)
    exact ⟨t, (hstep h).trans ht, hc⟩
  case granaryRead => exact fun h => ⟨_, hstep h, r.granaryRead_coreAt core en u⟩
  case supervisor =>
    intro h hw
    obtain ⟨t, ht, hc⟩ := r.policyStep_supervisor plot hw
    exact ⟨t, (hstep h).trans ht, State.coreAt_of_cores hc⟩
  case misaligned => exact fun h hi hp => (hstream h).trans (State.streamTurn_misaligned h.2 hi hp)
  case unreadable => exact fun h hw => hfault t h (State.fetch_unreadable hpc h.2.2 hw)
  case undecodable =>
    intro h hw hd hs hp
    have hf := hfault _ h (State.fetch_undecodable hpc h.2.2 hw hd)
    rw [State.decodeCause_allowed er (hst ▸ hs) (hinst ▸ hp)] at hf
    exact hf

end Sys2Proof.Machine
end

section
/-! SUPPORT. Vector memory: checks that pass, one value per sheaf, and stores that enter an engine queue. -/

namespace Sys2Proof.Machine

/-- A condition that holds raises nothing. -/
theorem need_true {p : Bool} (c : Cause) (a : Word) (h : p = true) : need p c a = .ok () := by
  simp [need, h]

/-- A list each of whose items has a value: the values in its order. -/
theorem mapM_ok {α β : Type} {f : α → T β} {r : α → β} {l : List α} (h : ∀ a ∈ l, f a = .ok (r a)) :
    l.mapM f = .ok (l.map r) := by
  induction l with
  | nil => rfl
  | cons a t ih =>
    rw [List.mapM_cons, h a List.mem_cons_self, ih fun b hb => h b (List.mem_cons_of_mem _ hb)]
    rfl

/-- A store of another stream than C whose engine queue has room enters it (R113). -/
theorem State.store_held {s : State} (hs : s.stream ≠ .C) (hq : s.str.stores < 16) (els : List (List (Loc × Byte))) :
    s.store false false els = .done (s.held els) := by
  have hn : els.all (·.isEmpty) = true ↔ els.filter (!·.isEmpty) = [] := by simp [List.filter_eq_nil_iff]
  by_cases he : els.filter (!·.isEmpty) = []
  · simp only [State.store, if_neg hs, if_neg (Nat.not_le.mpr hq), if_pos (hn.mpr he), State.held, if_pos he]
  · simp only [State.store, if_neg hs, if_neg (Nat.not_le.mpr hq), if_neg (mt hn.mp he), State.held, if_neg he]

end Sys2Proof.Machine
end

section
/-! PROOF. Sheaf loads and stores (R205, R206). -/

namespace Sys2Proof.Machine

@[simp] theorem bothAt_ok {α β : Type} (a : α) (b : β) : bothAt (.ok a) (.ok b) = .ok (a, b) := rfl

/-- R205: a lane of a sheaf load whose places can be read, whose header `hd` and codebook are good, and whose value
the policy gives a pattern. -/
theorem State.sheafLane_ok {s : State} {ty : Ty} {w8 : Bool} {j0 a i : Nat} {pol : Pol} {hl cl : List Loc} {hd : Hdr}
    {v : Fl} {r : Nat × Flags} (hh : s.at_ .read ((a + hdrAt (j0 + i / 32)) % 2 ^ 64) 2 = .ok hl)
    (hc : s.at_ .read ((a + codeAt w8 (j0 + i / 32) (i % 32)) % 2 ^ 64) 1 = .ok cl)
    (hhd : Hdr.of (s.loadVal s.stream hl) = hd) (hok : hd.ok = true)
    (hcb : s.inst.sound (if hd.sel == 3 then [.cb (hd.aux % 8)] else []) = .ok ())
    (hv : elemOf s.inst.cbAt w8 hd.sel hd.aux (codeOf w8 (i % 32) (s.loadVal s.stream cl)) = .val v)
    (hr : ty.convert s.str.rnd pol false (v.scale ((hd.scale : Int) - 127)) = some r) :
    s.sheafLane ty w8 j0 pol a i = .ok r := by
  simp only [State.sheafLane, hh, hc, bothAt_ok, bind, Except.bind, hhd, hok, Bool.not_true, Bool.false_eq_true,
    if_false, hcb, hv, hr]

/-- R205: a ready sheaf load of an aligned stook completes where every active lane has a value. -/
theorem execVldsh_ready {h : Head} {m j0 : Fin 8} {ty : Ty} {w8 : Bool} {pol : Option Pol} {d : Dst} {a : Src}
    {s s1 : State} {r : Nat → Nat × Flags} (hr : s.ready (.vldsh h m ty w8 j0 pol d a) s1)
    (ha : (s1.val h .i64 a).toNat % 16 = 0)
    (hl : ∀ i, i < ty.lanes → s1.act m ty.width i = true →
      s1.sheafLane ty w8 j0 (s1.policy pol) (s1.val h .i64 a).toNat i = .ok (r i)) :
    execVldsh h m ty w8 j0 pol d a s =
      s.completes (.vldsh h m ty w8 j0 pol d a) (s1.lanesDone (s1.act m ty.width) ty d r) := by
  rw [execVldsh, issue_ready _ hr]
  simp only [need_true .align _ (beq_iff_eq.mpr ha), bind, Except.bind, s1.lanewise_ok m ty d _ r hl, Res.of,
    State.answer_done]

/-- R206: a ready sheaf store of another stream than C to an aligned stook completes where every sheaf may be
written: the sheaves enter the engine queue in order. -/
theorem execVstsh_ready {h : Head} {m j0 bank : Fin 8} {ty : Ty} {sel aux : Fin 16} {w8 half : Bool} {a : Src}
    {c : VSrc} {s s1 : State} {o : Nat → List (List (Loc × Byte)) × Flags}
    (hr : s.ready (.vstsh h m ty sel aux w8 j0 bank half a c) s1) (ha : (s1.val h .i64 a).toNat % 16 = 0)
    (hs : s1.stream ≠ .C) (hq : s1.str.stores < 16)
    (ho : ∀ k, k < ty.lanes / 32 →
      s1.sheafOut h m ty ⟨w8, sel, aux, bank, half⟩ c (s1.val h .i64 a).toNat (j0 + k) (32 * k) = .ok (o k)) :
    execVstsh h m ty sel aux w8 j0 bank half a c s = s.completes (.vstsh h m ty sel aux w8 j0 bank half a c)
      ((State.held { s1 with free := s1.free + 256 }
        ((List.range (ty.lanes / 32)).map fun k => (o k).1).flatten).addFlags
          ((List.range (ty.lanes / 32)).foldl (fun f k => f ||| (o k).2) 0)) := by
  have hl := mapM_ok fun k hk => ho k (List.mem_range.mp hk)
  rw [execVstsh, issue_ready _ hr]
  simp only [need_true .align _ (beq_iff_eq.mpr ha), bind, Except.bind, hl, Res.try_,
    State.store_held (s := { s1 with free := s1.free + 256 }) hs hq, List.map_map, List.foldl_map,
    Function.comp_def, State.answer_done]

/-- Settles O20: each lane of a load has its value, and each sheaf of a store its bytes. -/
theorem sheafMemoryResults : Obligations.SheafMemoryResults := by
  unfold Obligations.SheafMemoryResults
  intro h m j0 bank ty pol sel aux w8 half d a c hl cl v r o s s1 ld st ad on value n
  refine ⟨fun hr ha hlanes => execVldsh_ready hr ha fun i hi hon => ?lane, fun hr ha hs hq ho =>
    execVstsh_ready hr ha (by simp [hs]) hq ho⟩
  obtain ⟨hh, hok, hc, hcb, hv, hcv⟩ := hlanes i hi hon
  exact State.sheafLane_ok hh hc rfl hok hcb hv hcv

end Sys2Proof.Machine
end
